-- ==== Sys2Proof/Word.lean ====
section
/-! DEFINITION. The word types of `stepper_motion_ctrl`: the byte of the command port, the 64-bit
register of the state, and a command line (spec: 00_scope.md R11, R13, R14). -/

namespace Sys2Proof

/-- One 8-bit byte of a command line (R14). -/
abbrev Byte := BitVec 8

/-- A 64-bit register: a step count (two's complement), a speed in uSPS or a time in
microseconds, both unsigned (R11, R13). -/
abbrev Word := BitVec 64

/-- A command line: its bytes in arrival order, the terminator left out (R14, R81). -/
abbrev Line := List Byte

end Sys2Proof
end

