-- ==== Sys2Proof/Config.lean ====
section
/-! DEFINITION. The parameters of the block (spec: 00_scope.md R8, R9), the configuration that
`State.reset` carries, and the free values of the points the spec leaves unspecified. -/

namespace Sys2Proof

/-- The parameters of R8 and R9. They are configuration: "no command, event or tick writes them"
(R38). `State` carries them because a step has no other argument. R10's constraints are
`Params.legal` (Machine/Ops.lean). -/
structure Params where
  /-- `DEBOUNCE_US` (R8). -/
  debounceUs : Nat
  /-- `LONG_PRESS_US` (R8). -/
  longPressUs : Nat
  /-- `SOFT_START_US` (R8). -/
  softStartUs : Nat
  /-- `N_MAX_PULSES` (R8). -/
  nMaxPulses : Nat
  /-- `SETTLE_US` (R8). -/
  settleUs : Nat
  /-- `BRAKE_RELEASE_US` (R8). -/
  brakeReleaseUs : Nat
  /-- `V_MIN_RUN`, uSPS (R9). -/
  vMinRun : Nat
  /-- `V_START`, uSPS (R9). -/
  vStart : Nat
  /-- `A_STEADY`, steps/s^2 (R9). -/
  aSteady : Nat
  /-- `A_SOFT`, steps/s^2 (R9). -/
  aSoft : Nat
  /-- `DECEL`, steps/s^2 (R9). -/
  decel : Nat
  /-- `V_JOG_DEFAULT`, uSPS (R9). -/
  vJogDefault : Nat
  /-- `V_MOVE_DEFAULT`, uSPS (R9). -/
  vMoveDefault : Nat
  /-- `V_ACCEPT_MIN`, uSPS (R9). -/
  vAcceptMin : Nat
  /-- `V_ACCEPT_MAX`, uSPS (R9). -/
  vAcceptMax : Nat
  /-- `MIN_INTERVAL_US` (R9). -/
  minIntervalUs : Nat
  /-- `PULSE_WIDTH_US` (R9). -/
  pulseWidthUs : Nat
  /-- `DIR_SETUP_US` (R9). -/
  dirSetupUs : Nat
  /-- `DIR_INVERT` (R9). -/
  dirInvert : Bool
  /-- `ENABLE_ACTIVE_LOW` (R9). -/
  enableActiveLow : Bool
  /-- `LINE_MAX`, bytes without the terminator (R9). -/
  lineMax : Nat
  deriving DecidableEq, Repr

/-- The configuration of `State.reset`: the six values DART prints (R8) and, for the parameters
that have no value in any source (R9), those of the spec's test configuration T0.
DESIGN CHOICE, unsafe (notes/assumptions/1.md): T0 "carries no authority", so no statement rests on
these numbers; statements hold for every configuration that meets R10. -/
def Params.t0 : Params where
  debounceUs := 25000
  longPressUs := 1200000
  softStartUs := 350000
  nMaxPulses := 4
  settleUs := 80000
  brakeReleaseUs := 250000
  vMinRun := 50000000
  vStart := 200000000
  aSteady := 2000
  aSoft := 500
  decel := 4000
  vJogDefault := 1000000000
  vMoveDefault := 2000000000
  vAcceptMin := 200000000
  vAcceptMax := 20000000000
  minIntervalUs := 20
  pulseWidthUs := 5
  dirSetupUs := 5
  dirInvert := false
  enableActiveLow := false
  lineMax := 32

/-- FREE VALUE: `status.estop` between a reset and the first tick, which "has not been sampled"
(R267; 93_implementation_defined.md U8; notes/assumptions/5.md). Applied to the draw counter. -/
opaque Config.freeEstop : Nat → Bool

/-- FREE VALUE: the steps the status port shows for a slot that is not saved, "unspecified while
the matching `saved` is false" (R49; U1; notes/assumptions/6.md). Applied to the draw counter and
the slot's index. -/
opaque Config.freeSteps : Nat → Nat → Word

end Sys2Proof
end

