-- ==== Sys2Proof/Syntax.lean ====
section
/-! DEFINITION. The twelve commands of the block (spec: 30_encoding.md R90, R95): one constructor
per row of spec/opcode_table.json. -/

namespace Sys2Proof

/-- A decoded command, `Cmd` of R95. "`GT` and `MR` carry an unbounded integer, `VJ` and `VM` an
unbounded natural number in uSPS" (R95). -/
inductive Instr where
  /-- `JL`, jog left (R145). -/
  | jl
  /-- `JR`, jog right (R146). -/
  | jr
  /-- `JS`, jog stop (R147). -/
  | js
  /-- `ST`, stop (R148). -/
  | st
  /-- `GT<signed-int>`, go to an absolute step position (R155). -/
  | gt (v : Int)
  /-- `MR<signed-int>`, move relative to the current position (R156). -/
  | mr (v : Int)
  /-- `GH`, go home (R157). -/
  | gh
  /-- `GW`, go to well (R158). -/
  | gw
  /-- `SH`, save home (R169). -/
  | sh
  /-- `SW`, save well (R170). -/
  | sw
  /-- `VJ<float>`, set the jog ceiling, operand in uSPS (R167). -/
  | vj (v : Nat)
  /-- `VM<float>`, set the move ceiling, operand in uSPS (R168). -/
  | vm (v : Nat)
  deriving DecidableEq, Repr

end Sys2Proof
end

