-- ==== Sys2Proof/Decode.lean ====
section
/-! DEFINITION. The line framer (spec: 30_encoding.md R81), the decoder (R82 to R95), total on byte
strings and rejecting by `none`, and after it the encoder, written from the same tables. -/

namespace Sys2Proof

/-! ### Byte values (R81, R86, R88, R90; the ASCII code points of 93_implementation_defined.md
G1, PRESUMED: notes/assumptions/14.md) -/

/-- LF or CR: either one alone ends a line (R81). -/
def isTerminator (b : Byte) : Bool := b = 0x0A#8 || b = 0x0D#8

/-- `0` to `9` (R86). -/
def isDigit (b : Byte) : Bool := decide (0x30 ≤ b.toNat) && decide (b.toNat ≤ 0x39)

/-- `+`, `-` (R86) and `.` (R88). -/
def bytePlus : Byte := 0x2B#8
/-- See `bytePlus`. -/
def byteMinus : Byte := 0x2D#8
/-- See `bytePlus`. -/
def bytePoint : Byte := 0x2E#8
/-- The digit `0`. -/
def byteZero : Byte := 0x30#8

/-! ### Framing (R81) -/

/-- R81: cut a byte stream into lines. `cur` is the unterminated line so far; the answer is the
complete lines, oldest first, and the bytes that still wait for a terminator. -/
def frameBytes (cur : Line) : List Byte → List Line × Line
  | [] => ([], cur)
  | b :: bs =>
    if isTerminator b then (cur :: (frameBytes [] bs).1, (frameBytes [] bs).2) else frameBytes (cur ++ [b]) bs

/-! ### Operand assembly (R86, R88) -/

/-- The number that digit bytes spell, most significant first (R86). -/
def natOfDigits (ds : List Byte) : Nat :=
  ds.foldl (fun a d => a * 10 + (d.toNat - 0x30)) 0

/-- One or more digit bytes, and their value (R86). -/
def numeral (ds : List Byte) : Option Nat :=
  if ds ≠ [] ∧ ds.all isDigit = true then some (natOfDigits ds) else none

/-- The signed-int numeral of `GT` and `MR` (R86). -/
def intValue : List Byte → Option Int
  | [] => none
  | b :: ds =>
    if b = bytePlus then (numeral ds).map Int.ofNat
    else if b = byteMinus then (numeral ds).map (fun n : Nat => -(n : Int))
    else (numeral (b :: ds)).map Int.ofNat

/-- The first six digits after the point, padded on the right with `0` (R88). -/
def fraction (ds : List Byte) : Nat :=
  natOfDigits ((ds ++ List.replicate 6 byteZero).take 6)

/-- The decimal numeral of `VJ` and `VM`, in uSPS (R88): `I * 1 000 000 + F`. -/
def uspsValue (arg : List Byte) : Option Nat :=
  match arg.dropWhile (· ≠ bytePoint) with
  | [] => (numeral arg).map (· * 1000000)
  | _ :: fs =>
    let is := arg.takeWhile (· ≠ bytePoint)
    if is.all isDigit = true ∧ fs.all isDigit = true ∧ (is ≠ [] ∨ fs ≠ []) then
      some (natOfDigits is * 1000000 + fraction fs)
    else none

/-! ### The opcode map (R90) and the decoder (R95) -/

/-- `opcode16 = b[0] * 256 + b[1]` of the command's row (R90, spec/opcode_table.json). -/
def Instr.opcode16 : Instr → Nat
  | .jl => 0x4A4C
  | .jr => 0x4A52
  | .js => 0x4A53
  | .st => 0x5354
  | .gt _ => 0x4754
  | .mr _ => 0x4D52
  | .gh => 0x4748
  | .gw => 0x4757
  | .sh => 0x5348
  | .sw => 0x5357
  | .vj _ => 0x564A
  | .vm _ => 0x564D

/-- Format `BARE`: nothing follows the opcode (R83, R84). -/
def bare (i : Instr) (arg : List Byte) : Option Instr := if arg = [] then some i else none

/-- The command of an opcode and its argument text; `none` for the values that are no opcode
(R94) and for an argument that does not fit the format (R83, R95). -/
def decodeOp (op : Nat) (arg : List Byte) : Option Instr :=
  if op = 0x4A4C then bare .jl arg
  else if op = 0x4A52 then bare .jr arg
  else if op = 0x4A53 then bare .js arg
  else if op = 0x5354 then bare .st arg
  else if op = 0x4748 then bare .gh arg
  else if op = 0x4757 then bare .gw arg
  else if op = 0x5348 then bare .sh arg
  else if op = 0x5357 then bare .sw arg
  else if op = 0x4754 then (intValue arg).map .gt
  else if op = 0x4D52 then (intValue arg).map .mr
  else if op = 0x564A then (uspsValue arg).map .vj
  else if op = 0x564D then (uspsValue arg).map .vm
  else none

/-- `decode` of R95, total on byte strings; `none` is an unrecognised line (R92, R93). -/
def decodeLine (lineMax : Nat) (line : Line) : Option Instr :=
  if line.length > lineMax then none
  else
    match line with
    | b0 :: b1 :: arg => decodeOp (b0.toNat * 256 + b1.toNat) arg
    | _ => none

/-! ### The encoder -/

/-- The digit byte of `n % 10`. -/
def digitByte (n : Nat) : Byte := BitVec.ofNat 8 (0x30 + n % 10)

/-- Decimal digits, most significant first, at most `fuel` of them. -/
def digitsText : Nat → Nat → List Byte
  | 0, _ => []
  | fuel + 1, n => if n < 10 then [digitByte n] else digitsText fuel (n / 10) ++ [digitByte n]

/-- The shortest spelling of a number in base ten (R86). -/
def natText (n : Nat) : List Byte := digitsText (n.log2 + 1) n

/-- The shortest signed-int numeral (R86). -/
def intText (v : Int) : List Byte :=
  if v < 0 then byteMinus :: natText v.natAbs else natText v.natAbs

/-- The six digits of a fraction in millionths (R88). -/
def sixDigits (f : Nat) : List Byte :=
  [digitByte (f / 100000), digitByte (f / 10000), digitByte (f / 1000),
   digitByte (f / 100), digitByte (f / 10), digitByte f]

/-- Take the zeros off the right end. -/
def trimZeros (ds : List Byte) : List Byte := (ds.reverse.dropWhile (· = byteZero)).reverse

/-- The shortest decimal numeral of a uSPS value (R88). -/
def uspsText (v : Nat) : List Byte :=
  if v % 1000000 = 0 then natText (v / 1000000)
  else
    (if v / 1000000 = 0 then [] else natText (v / 1000000)) ++
      bytePoint :: trimZeros (sixDigits (v % 1000000))

/-- The argument text of a command (R83). -/
def Instr.argText : Instr → List Byte
  | .jl | .jr | .js | .st | .gh | .gw | .sh | .sw => []
  | .gt v | .mr v => intText v
  | .vj v | .vm v => uspsText v

/-- The two opcode bytes (R90). -/
def opcodeBytes (op : Nat) : List Byte := [BitVec.ofNat 8 (op / 256), BitVec.ofNat 8 op]

/-- The shortest line of a command, terminator left out (R82, R83, R96). -/
def encode (i : Instr) : Line := opcodeBytes i.opcode16 ++ i.argText

/-! ### The table's words -/

/-- `k` bytes of a number, the least significant first. -/
def laterBytes : Nat → Nat → List Byte
  | 0, _ => []
  | k + 1, w => BitVec.ofNat 8 w :: laterBytes k (w / 256)

/-- The opcode takes a numeral (formats `INT` and `DEC`, R83). -/
def takesNumeral (op : Nat) : Bool :=
  op = 0x4754 || op = 0x4D52 || op = 0x564A || op = 0x564D

/-- The line of an instruction whose table bits are `w`: bits 15..0 are `opcode16`, whose high
byte is received first (R14, R90), and each later byte counts on from bit 16. The table gives the
numeral of `GT`, `MR`, `VJ` and `VM` no bits: an operand of zero is then the numeral `0`, byte `30`
(DESIGN CHOICE, notes/assumptions/9.md); the two bytes alone are no command (R87, R89). -/
def lineOfTableWord (nbits w : Nat) : Line :=
  if nbits < 16 then laterBytes (nbits / 8) w
  else
    opcodeBytes (w % 65536) ++
      (if nbits < 24 then (if takesNumeral (w % 65536) then [byteZero] else [])
       else laterBytes (nbits / 8 - 2) (w / 65536))

/-- The instruction the decoder reads from the table's word, under the configuration of
`State.reset`. -/
def decodeTableWord (nbits w : Nat) : Option Instr :=
  decodeLine Params.t0.lineMax (lineOfTableWord nbits w)

end Sys2Proof
end

