-- ==== Sys2Proof/Machine/State.lean ====
section
/-! DEFINITION. The state of the block (spec: 10_state.md R20 to R49), the ports around it, the
reasons a step can stop, and the state after reset (R50). -/

namespace Sys2Proof.Machine

/-- `mode` (R21). -/
inductive Mode where
  | idle
  | jog
  | move
  deriving DecidableEq, Repr

/-- A direction of travel (R19, R24): `left` is `-1`, `right` is `+1`. -/
inductive Dir where
  | left
  | right
  deriving DecidableEq, Repr

/-- A jog demand (R18, R42): `left` is `-1`, `neutral` is `0`, `right` is `+1`. -/
inductive Demand where
  | left
  | neutral
  | right
  deriving DecidableEq, Repr

/-- The two slots, and the two position buttons that go with them (R32, R34, R61). -/
inductive Slot where
  | home
  | well
  deriving DecidableEq, Repr

/-- A release event of a position button (R129). -/
inductive Release where
  | tap
  | longPress
  deriving DecidableEq, Repr

/-- ButtonState, DART's six fields (R33). -/
structure ButtonState where
  raw : Bool
  stable : Bool
  lastStable : Bool
  lastTransition : Word
  pressStart : Word
  longFlag : Bool
  deriving DecidableEq, Repr

/-- PositionMemory (R34). -/
structure PositionMemory where
  steps : Word
  saved : Bool
  deriving DecidableEq, Repr

/-- The five input levels of a tick, logical sense (R46). -/
structure Levels where
  jogLeftBtn : Bool
  jogRightBtn : Bool
  homeBtn : Bool
  wellBtn : Bool
  estop : Bool
  deriving DecidableEq, Repr

/-- What the environment does to the block, one per step: bytes arrive on the command channel
(R80, R81), a control tick happens (R12), or the reset input acts (R265;
notes/assumptions/2.md). -/
inductive Event where
  | rx (bytes : List Byte)
  | tick (now : Word) (inp : Levels)
  | reset
  deriving DecidableEq, Repr

/-- No command, event or tick raises an exception (R236), so the model has no fault: the type has
no constructor and nobody raises one. Safe. -/
inductive Fault where
  deriving DecidableEq, Repr

/-- The reasons a step is refused. -/
inductive Refusal where
  /-- Raised by `exec` for a command that has no meaning yet; no arm does so. Safe. -/
  | notModelled (mnemonic : String)
  /-- Raised by every step while the parameters break R10: "A configuration that breaks one is
  refused by the model". Safe. -/
  | illegalConfig
  /-- Raised by a tick with `now < lastTickTime` (R275 item 1). Safe. -/
  | timeBackwards
  /-- Raised by a tick with `now >= 2^63` (R275 item 2). Safe. -/
  | timeOutOfRange
  /-- Raised by a tick that is handed a line with `0A` or `0D` in it (R275 item 3). Safe. -/
  | terminatorInLine
  deriving DecidableEq, Repr

/-- The state. The first five groups are the block's (R20); after them stand the outputs of the
last tick, the inputs of the tick in progress, and the environment's side of the ports. -/
structure State where
  /-- The parameters (R8, R9, R38); no step writes them. -/
  params : Params
  /-- MotionState: operating mode (R21). -/
  mode : Mode
  /-- The reversing sub-state of Move (R22). -/
  reversing : Bool
  /-- Commanded speed, unsigned uSPS (R23). -/
  currentSpeed : Word
  /-- Current step direction (R24). -/
  direction : Dir
  /-- Pulses emitted so far, signed (R25). -/
  position : Word
  /-- Target of the active Move, signed (R26). -/
  target : Word
  /-- Target of the most recently requested Move, signed (R27). -/
  commandedTarget : Word
  /-- Direction to adopt when a reversal is done (R28). -/
  pendingDirection : Dir
  /-- Start of the episode, us (R29). -/
  motionStartTime : Word
  /-- ScheduleState: time the next pulse is due, us (R31). -/
  nextStepDeadline : Word
  /-- ButtonState of the home button (R32, R33). -/
  btnHome : ButtonState
  /-- ButtonState of the well button (R32, R33). -/
  btnWell : ButtonState
  /-- PositionMemory `home` (R34). -/
  slotHome : PositionMemory
  /-- PositionMemory `well` (R34). -/
  slotWell : PositionMemory
  /-- Latched remote jog demand (R35). -/
  remoteJogLeft : Bool
  /-- Latched remote jog demand (R35). -/
  remoteJogRight : Bool
  /-- Jog speed ceiling, uSPS (R36). -/
  vJogMax : Word
  /-- Move speed ceiling, uSPS (R37). -/
  vMoveMax : Word
  /-- `now` of the previous tick (R39). -/
  lastTickTime : Word
  /-- ENABLE output register, logical sense (R40). -/
  enabled : Bool
  /-- `now` of the tick that last enabled the drive (R41). -/
  settleStart : Word
  /-- Jog demand of the previous open-gate tick (R42). -/
  prevDemand : Demand
  /-- `now` of the tick that started the brake-release delay (R43). -/
  brakeStart : Word
  /-- The brake-release delay is running (R43). -/
  brakeHold : Bool
  /-- DIR output register, logical sense (R44). -/
  dirOut : Bool
  /-- STEP output level at the end of the last tick (R47, R50). -/
  stepOut : Bool
  /-- Pulse trace of the last tick, first pulse first (R47). -/
  trace : List Dir
  /-- `now` of the tick in progress, "sampled once and used for the whole tick" (R12;
  notes/assumptions/4.md). -/
  now : Word
  /-- `in.estop` of the last tick, for `status.estop` (R49); `none` before the first tick (R267;
  notes/assumptions/4.md). -/
  estopSeen : Option Bool
  /-- The environment's framer: bytes of an unterminated line (R81). -/
  rxPartial : Line
  /-- The environment's queue: complete lines not yet handed over, oldest first (R52, R81). -/
  lineQueue : List Line
  /-- What the environment will do, next event first (R12, R52). -/
  script : List Event
  /-- MODEL's own: the counter of the free values (Config.freeEstop, Config.freeSteps;
  notes/assumptions/4.md). -/
  drawCount : Nat
  deriving DecidableEq, Repr

/-- A ButtonState after reset (R33, R50). -/
def ButtonState.reset : ButtonState where
  raw := false
  stable := false
  lastStable := false
  lastTransition := 0#64
  pressStart := 0#64
  longFlag := false

/-- A PositionMemory after reset (R34, R50); `steps` is a don't-care (notes/assumptions/7.md). -/
def PositionMemory.reset : PositionMemory where
  steps := 0#64
  saved := false

/-- The table of R50 under the parameters `p`, with nothing queued and nothing scripted. -/
def State.resetWith (p : Params) : State where
  params := p
  mode := .idle
  reversing := false
  currentSpeed := 0#64
  direction := .right
  position := 0#64
  target := 0#64
  commandedTarget := 0#64
  pendingDirection := .right
  motionStartTime := 0#64
  nextStepDeadline := 0#64
  btnHome := ButtonState.reset
  btnWell := ButtonState.reset
  slotHome := PositionMemory.reset
  slotWell := PositionMemory.reset
  remoteJogLeft := false
  remoteJogRight := false
  vJogMax := BitVec.ofNat 64 p.vJogDefault
  vMoveMax := BitVec.ofNat 64 p.vMoveDefault
  lastTickTime := 0#64
  enabled := false
  settleStart := 0#64
  prevDemand := .neutral
  brakeStart := 0#64
  brakeHold := false
  dirOut := true
  stepOut := false
  trace := []
  now := 0#64
  estopSeen := none
  rxPartial := []
  lineQueue := []
  script := []
  drawCount := 0

/-- The machine right after reset (R50, R266), under the configuration `Params.t0`. -/
def State.reset : State := State.resetWith Params.t0

end Sys2Proof.Machine
end

