-- ==== Sys2Proof/Machine/Ops.lean ====
section
/-! DEFINITION. The named operations over the state that commands, events and phases share: numbers
and units (spec: 00_scope.md R13), the constraints on parameters (R10), slots and buttons, the
E-stop trip (60_exceptions.md R240) and the enabling that undoes it (R241), Move requests
(45_motion_state_machine.md R178), and the Position Store (44_commands_store_config.md R165, R166). -/

namespace Sys2Proof

/-! ### The constraints on the parameters (R10) -/

/-- R10, clause by clause. A configuration that breaks one is refused. -/
def Params.legal (p : Params) : Bool :=
  decide (1 ≤ p.vMinRun ∧ p.vMinRun ≤ p.vStart ∧ p.vStart ≤ p.vAcceptMin ∧
    p.vAcceptMin ≤ p.vAcceptMax ∧ p.vAcceptMax < 2 ^ 63 ∧
    p.vAcceptMin ≤ p.vJogDefault ∧ p.vJogDefault ≤ p.vAcceptMax ∧
    p.vAcceptMin ≤ p.vMoveDefault ∧ p.vMoveDefault ≤ p.vAcceptMax ∧
    1 ≤ p.aSoft ∧ p.aSoft ≤ p.aSteady ∧ p.aSteady < 2 ^ 32 ∧
    1 ≤ p.decel ∧ p.decel < 2 ^ 32 ∧
    1 ≤ p.nMaxPulses ∧ 1 ≤ p.minIntervalUs ∧
    p.pulseWidthUs + p.dirSetupUs < p.minIntervalUs ∧ 2 ≤ p.lineMax ∧
    p.debounceUs < 2 ^ 32 ∧ p.longPressUs < 2 ^ 32 ∧ p.softStartUs < 2 ^ 32 ∧
    p.settleUs < 2 ^ 32 ∧ p.brakeReleaseUs < 2 ^ 32 ∧ p.minIntervalUs < 2 ^ 32 ∧
    p.pulseWidthUs < 2 ^ 32 ∧ p.dirSetupUs < 2 ^ 32)

end Sys2Proof

namespace Sys2Proof.Machine

/-- Run `f` on the state an outcome carries. -/
def andThen (o : Host.Outcome State Fault Refusal)
    (f : State → Host.Outcome State Fault Refusal) : Host.Outcome State Fault Refusal :=
  match o with
  | .next s => f s
  | .fault r => .fault r
  | .refused r => .refused r

/-! ### Numbers (R13) -/

/-- Narrow a natural number to a 64-bit field. Every caller's value fits where the parameters and the
tick are legal (R191, R275 item 2; notes/assumptions/16.md). -/
def toWord (n : Nat) : Word := BitVec.ofNat 64 n

/-- `wrap64` (R13). -/
def wrap64 (x : Int) : Word := BitVec.ofInt 64 x

/-- `now - stored` on unbounded integers (R13, R250; notes/assumptions/15.md). -/
def elapsed (now stored : Word) : Int := (now.toNat : Int) - (stored.toNat : Int)

/-- `+1` or `-1` (R19, R24). -/
def Dir.val : Dir → Int
  | .left => -1
  | .right => 1

/-- The direction bit: `0` for `-1`, `1` for `+1` (R24, R44). -/
def Dir.bit : Dir → Bool
  | .left => false
  | .right => true

/-- `sgn(x)` as a direction, for `x` not `0` (R13). -/
def dirOf (x : Int) : Dir := if x < 0 then .left else .right

/-- The direction of a demand; `none` for neutral (R18). -/
def Demand.dir? : Demand → Option Dir
  | .left => some .left
  | .neutral => none
  | .right => some .right

/-- The status port's code of a mode (R21). -/
def Mode.code : Mode → BitVec 2
  | .idle => 0#2
  | .jog => 1#2
  | .move => 2#2

/-- The slot map (R61). -/
def Slot.index : Slot → Nat
  | .home => 0
  | .well => 1

/-! ### Slots and buttons by name (R32, R34, R61) -/

/-- ButtonState of a position button (R32). -/
def State.btn (s : State) : Slot → ButtonState
  | .home => s.btnHome
  | .well => s.btnWell

/-- Write a ButtonState record (R33). -/
def State.setBtn (k : Slot) (b : ButtonState) (s : State) : State :=
  match k with
  | .home => { s with btnHome := b }
  | .well => { s with btnWell := b }

/-- `SlotRead` (R15, R64). -/
def State.slot (s : State) : Slot → PositionMemory
  | .home => s.slotHome
  | .well => s.slotWell

/-- `SlotWrite`: `steps` and `saved` together (R15, R64). -/
def State.slotWrite (k : Slot) (v : Word) (s : State) : State :=
  match k with
  | .home => { s with slotHome := { steps := v, saved := true } }
  | .well => { s with slotWell := { steps := v, saved := true } }

/-! ### The trip and its undoing (R240, R241, R245, R246) -/

/-- The E-stop trip, "trap entry" for this block (R240, R245): nothing is saved and there is no
handler; the fields listed are overwritten and every other one is left. -/
def trip (s : State) : State :=
  { s with
    enabled := false
    mode := .idle
    currentSpeed := 0#64
    reversing := false
    target := s.position
    remoteJogLeft := false
    remoteJogRight := false
    prevDemand := .neutral
    brakeHold := false }

/-- Enabling the drive, "trap return" for this block (R241, R246): where the drive is disabled,
ENABLE is asserted and the settle delay starts. -/
def enableDrive (s : State) : State :=
  if s.enabled then s else { s with enabled := true, settleStart := s.now }

/-! ### Move requests (R178) -/

/-- The part of case 2 that Idle and Jog share: a new episode toward `t` (R178). -/
def beginMove (t : Word) (s : State) : State :=
  { s with
    target := t
    commandedTarget := t
    direction := dirOf (t.toInt - s.position.toInt)
    reversing := false
    mode := .move
    motionStartTime := s.now }

/-- The part of a new episode that only Idle adds: start speed, and the schedule at `now`
(R178 case 2, R181). -/
def startFromIdle (s : State) : State :=
  { s with currentSpeed := toWord s.params.vStart, nextStepDeadline := s.now }

/-- A request while in Move: cases 3 to 5 of R178. -/
def retarget (t : Word) (s : State) : State :=
  let s1 := { s with target := t, commandedTarget := t }
  if t.toInt - s.position.toInt = 0 then { s1 with reversing := false, mode := .idle }
  else if dirOf (t.toInt - s.position.toInt) = s.direction then { s1 with reversing := false }
  else { s1 with reversing := true, pendingDirection := dirOf (t.toInt - s.position.toInt) }

/-- `MoveRequest(t)` (R178). -/
def moveRequest (t : Word) (s : State) : State :=
  match s.mode with
  | .idle => if t.toInt - s.position.toInt = 0 then s else startFromIdle (beginMove t s)
  | .jog => if t.toInt - s.position.toInt = 0 then s else beginMove t s
  | .move => retarget t s

/-! ### The Position Store (R165, R166) -/

/-- `Recall(k)` (R165). -/
def recallSlot (k : Slot) (s : State) : State :=
  if (s.slot k).saved then moveRequest (s.slot k).steps s else s

/-- `Save(k)` (R166). -/
def saveSlot (k : Slot) (s : State) : State := s.slotWrite k s.position

end Sys2Proof.Machine
end

