-- ==== Sys2Proof/Machine/Arbiter.lean ====
section
/-! DEFINITION. Phase 2, the Input Arbiter: debounce, tap and long-press (spec:
41_input_arbiter.md R125 to R132; 40_tick_sequence.md R112). -/

namespace Sys2Proof.Machine

/-- Step 1, raw tracking (R126). -/
def trackRaw (sample : Bool) (now : Word) (b : ButtonState) : ButtonState :=
  if sample ≠ b.raw then { b with raw := sample, lastTransition := now } else b

/-- Step 2, acceptance of a persistent level, equality accepting (R127). -/
def acceptLevel (p : Params) (now : Word) (b : ButtonState) : ButtonState :=
  if b.raw ≠ b.stable ∧ (p.debounceUs : Int) ≤ elapsed now b.lastTransition then
    { b with stable := b.raw }
  else b

/-- Step 3, the long-press flag, judged on the level held up to now (R128). -/
def flagLong (p : Params) (now : Word) (b : ButtonState) : ButtonState :=
  if b.lastStable = true ∧ b.longFlag = false ∧
      (p.longPressUs : Int) ≤ elapsed now b.pressStart then
    { b with longFlag := true }
  else b

/-- Steps 4 and 5, edges and bookkeeping (R129, R130). -/
def edge (now : Word) (b : ButtonState) : ButtonState × Option Release :=
  if b.stable = b.lastStable then (b, none)
  else if b.stable then
    ({ b with pressStart := now, longFlag := false, lastStable := b.stable }, none)
  else
    ({ b with lastStable := b.stable }, some (if b.longFlag then .longPress else .tap))

/-- `Debounce` on one record (R125). -/
def debounce (p : Params) (sample : Bool) (now : Word) (b : ButtonState) :
    ButtonState × Option Release :=
  edge now (flagLong p now (acceptLevel p now (trackRaw sample now b)))

/-- Apply a release event of button `k` (R131, R132). -/
def applyRelease (k : Slot) (ev : Option Release) (s : State) : State :=
  match ev with
  | none => s
  | some .tap => recallSlot k s
  | some .longPress => saveSlot k s

/-- One button of phase 2: debounce it, then apply its event at once (R112). -/
def serveButton (k : Slot) (sample : Bool) (s : State) : State :=
  let r := debounce s.params sample s.now (s.btn k)
  applyRelease k r.2 (s.setBtn k r.1)

/-- Phase 2: home, then well (R112). -/
def arbiter (inp : Levels) (s : State) : State :=
  serveButton .well inp.wellBtn (serveButton .home inp.homeBtn s)

end Sys2Proof.Machine
end

