-- ==== Sys2Proof/Machine/Flags.lean ====
section
/-! DEFINITION. The one-bit state that commands set and the demand it feeds: the remote jog flags
(spec: 42_commands_jog_stop.md R145 to R148) and `JogDemand` (41_input_arbiter.md R133). The block
has no condition codes (10_state.md R45). -/

namespace Sys2Proof.Machine

/-- Write both remote jog flags (R35). -/
def setRemoteJog (left right : Bool) (s : State) : State :=
  { s with remoteJogLeft := left, remoteJogRight := right }

/-- `JogDemand(in, S)` (R133): neutral where neither or both sides are asserted (R134). -/
def jogDemand (inp : Levels) (s : State) : Demand :=
  let l := inp.jogLeftBtn || s.remoteJogLeft
  let r := inp.jogRightBtn || s.remoteJogRight
  if l && !r then .left else if r && !l then .right else .neutral

end Sys2Proof.Machine
end

