-- ==== Sys2Proof/Machine/JogStop.lean ====
section
/-! DEFINITION. The commands `JL`, `JR`, `JS`, `ST` (spec: 42_commands_jog_stop.md R145 to R148). -/

namespace Sys2Proof.Machine

/-- `JL` (R145). -/
def execJl (s : State) : Host.Outcome State Fault Refusal := .next (setRemoteJog true false s)

/-- `JR` (R146). -/
def execJr (s : State) : Host.Outcome State Fault Refusal := .next (setRemoteJog false true s)

/-- `JS` (R147). -/
def execJs (s : State) : Host.Outcome State Fault Refusal := .next (setRemoteJog false false s)

/-- `ST` (R148): clear the remote flags and, in Move, request a Move onto the current position. -/
def execSt (s : State) : Host.Outcome State Fault Refusal :=
  let s1 := setRemoteJog false false s
  .next (if s1.mode = .move then moveRequest s1.position s1 else s1)

end Sys2Proof.Machine
end

