-- ==== Sys2Proof/Machine/Operands.lean ====
section
/-! DEFINITION. The operand forms of the commands: the range checks of `GT` and `MR`
(spec: 43_commands_move.md R155, R156) and of `VJ` and `VM` (44_commands_store_config.md R167,
R168). "The value is not narrowed by the decoder: the range checks belong to the commands" (R86). -/

namespace Sys2Proof.Machine

/-- The value is inside signed 64 bits (R155, R156). -/
def fitsWord (v : Int) : Bool := decide (-(2 ^ 63) ≤ v) && decide (v ≤ 2 ^ 63 - 1)

/-- An absolute target: a silent no-op outside signed 64 bits (R155). -/
def absoluteTarget (v : Int) : Option Word :=
  if fitsWord v then some (BitVec.ofInt 64 v) else none

/-- A target relative to the position at the moment the command executes; the sum is unbounded and
then checked (R156). -/
def relativeTarget (s : State) (v : Int) : Option Word := absoluteTarget (s.position.toInt + v)

/-- A `Move` request where the operand gives a target, a no-op where it does not (R155, R156). -/
def requestIf (t : Option Word) (s : State) : State :=
  match t with
  | some t => moveRequest t s
  | none => s

/-- The accepted range of `VJ` and `VM`, inclusive at both ends (R167, R168). -/
def acceptedSpeed (s : State) (v : Nat) : Option Word :=
  if s.params.vAcceptMin ≤ v ∧ v ≤ s.params.vAcceptMax then some (toWord v) else none

end Sys2Proof.Machine
end

