-- ==== Sys2Proof/Machine/MoveCommands.lean ====
section
/-! DEFINITION. The commands `GT`, `MR`, `GH`, `GW` (spec: 43_commands_move.md R155 to R158). -/

namespace Sys2Proof.Machine

/-- `GT<signed-int>` (R155). -/
def execGt (v : Int) (s : State) : Host.Outcome State Fault Refusal :=
  .next (requestIf (absoluteTarget v) s)

/-- `MR<signed-int>` (R156). -/
def execMr (v : Int) (s : State) : Host.Outcome State Fault Refusal :=
  .next (requestIf (relativeTarget s v) s)

/-- `GH` (R157). -/
def execGh (s : State) : Host.Outcome State Fault Refusal := .next (recallSlot .home s)

/-- `GW` (R158). -/
def execGw (s : State) : Host.Outcome State Fault Refusal := .next (recallSlot .well s)

end Sys2Proof.Machine
end

