-- ==== Sys2Proof/Machine/StoreCommands.lean ====
section
/-! DEFINITION. The commands `SH`, `SW`, `VJ`, `VM` (spec: 44_commands_store_config.md R167 to
R170). -/

namespace Sys2Proof.Machine

/-- `SH` (R169). -/
def execSh (s : State) : Host.Outcome State Fault Refusal := .next (saveSlot .home s)

/-- `SW` (R170). -/
def execSw (s : State) : Host.Outcome State Fault Refusal := .next (saveSlot .well s)

/-- `VJ<float>` (R167): out of range is ignored, not clamped (90_conflicts.md C4). -/
def execVj (v : Nat) (s : State) : Host.Outcome State Fault Refusal :=
  match acceptedSpeed s v with
  | some w => .next { s with vJogMax := w }
  | none => .next s

/-- `VM<float>` (R168). -/
def execVm (v : Nat) (s : State) : Host.Outcome State Fault Refusal :=
  match acceptedSpeed s v with
  | some w => .next { s with vMoveMax := w }
  | none => .next s

end Sys2Proof.Machine
end

