-- ==== Sys2Proof/Machine/Dispatch.lean ====
section
/-! DEFINITION. One command, executed in phase 3 of an open-gate tick (spec: 40_tick_sequence.md
R113). -/

namespace Sys2Proof.Machine

def exec (i : Instr) (s : State) : Host.Outcome State Fault Refusal :=
  match i with
  | .jl => Sys2Proof.Machine.execJl s
  | .jr => Sys2Proof.Machine.execJr s
  | .js => Sys2Proof.Machine.execJs s
  | .st => Sys2Proof.Machine.execSt s
  | .gt v => Sys2Proof.Machine.execGt v s
  | .mr v => Sys2Proof.Machine.execMr v s
  | .gh => Sys2Proof.Machine.execGh s
  | .gw => Sys2Proof.Machine.execGw s
  | .sh => Sys2Proof.Machine.execSh s
  | .sw => Sys2Proof.Machine.execSw s
  | .vj v => Sys2Proof.Machine.execVj v s
  | .vm v => Sys2Proof.Machine.execVm v s

end Sys2Proof.Machine
end

