-- ==== Sys2Proof/Machine/Emitter.lean ====
section
/-! DEFINITION. Phase 6, the Step Pulse Emitter (spec: 47_step_pulse_emitter.md R215 to R228). -/

namespace Sys2Proof.Machine

/-- The pulse interval, us (R218). -/
def interval (s : State) : Nat := max s.params.minIntervalUs (10 ^ 12 / s.currentSpeed.toNat)

/-- A pulse is due (R221). -/
def pulseDue (s : State) : Bool := decide (s.nextStepDeadline.toNat ≤ s.now.toNat)

/-- One pulse, one atomic event: `position` moves, DIR is written, STEP goes high and low again,
the schedule advances from the deadline (R222 to R225). Past an end of its range `position` wraps
(R224; notes/assumptions/11.md). -/
def pulse (iv : Nat) (s : State) : State :=
  { s with
    position := wrap64 (s.position.toInt + s.direction.val)
    dirOut := s.direction.bit
    stepOut := false
    trace := s.trace ++ [s.direction]
    nextStepDeadline := toWord (s.nextStepDeadline.toNat + iv) }

/-- Arrival: the exact-stop check, off while reversing and outside Move (R226). -/
def arrived (s : State) : Bool :=
  decide (s.mode = .move) && !s.reversing && decide (s.position = s.target)

/-- The pulse loop with at most `n` pulses left (R221, R226). -/
def pulseLoop (iv : Nat) : Nat → State → State
  | 0, s => s
  | n + 1, s =>
    if pulseDue s then
      if arrived (pulse iv s) then { pulse iv s with mode := .idle }
      else pulseLoop iv n (pulse iv s)
    else s

/-- Backlog drop (R227). -/
def dropBacklog (iv : Nat) (s : State) : State :=
  if s.mode ≠ .idle ∧ pulseDue s = true then
    { s with nextStepDeadline := toWord (s.now.toNat + iv) }
  else s

/-- The brake-release hold of a Jog is still on (R220). -/
def held (s : State) : Bool :=
  decide (s.mode = .jog) && s.brakeHold &&
    decide (elapsed s.now s.brakeStart < s.params.brakeReleaseUs)

/-- End of the hold: the soft-start window and the schedule begin (R220). -/
def releaseBrake (s : State) : State :=
  if s.mode = .jog ∧ s.brakeHold = true then
    { s with brakeHold := false, motionStartTime := s.now, nextStepDeadline := s.now }
  else s

/-- Emission at the current speed: none below the minimum runnable speed, and then no debt
(R217, R228); else the loop and the backlog drop. -/
def emitRunning (s : State) : State :=
  if s.currentSpeed.toNat < s.params.vMinRun then { s with nextStepDeadline := s.now }
  else dropBacklog (interval s) (pulseLoop (interval s) s.params.nMaxPulses s)

/-- `Emit(now)` (R215); the trace is `State.trace`, empty when the phase begins. -/
def emit (s : State) : State :=
  if s.mode = .idle then s
  else if held s then s
  else emitRunning (releaseBrake s)

end Sys2Proof.Machine
end

