-- ==== Sys2Proof/Machine/Gate.lean ====
section
/-! DEFINITION. Phase 1, the Safety Monitor (spec: 60_exceptions.md R238 to R243). -/

namespace Sys2Proof.Machine

/-- The settle delay is over (R242): equality opens the gate. -/
def settled (s : State) : Bool := decide ((s.params.settleUs : Int) ≤ elapsed s.now s.settleStart)

/-- `SafetyGate(estop, now)` (R239): the state it leaves, and whether the gate is open. -/
def safetyGate (estop : Bool) (s : State) : State × Bool :=
  if estop then (trip s, false) else (enableDrive s, settled (enableDrive s))

end Sys2Proof.Machine
end

