-- ==== Sys2Proof/Machine/Motion.lean ====
section
/-! DEFINITION. Phase 4, jog arbitration (spec: 45_motion_state_machine.md R179 to R183). The state
machine's other entry point, `MoveRequest`, is in Machine/Ops.lean. -/

namespace Sys2Proof.Machine

/-- Where the demand of the previous open-gate tick was neutral, the brake-release delay starts
(R180). -/
def startBrake (s : State) : State :=
  if s.prevDemand = .neutral then { s with brakeHold := true, brakeStart := s.now } else s

/-- Entry into Jog (R181): from Idle at the start speed with the schedule at `now`; from Move with
the speed and the schedule kept and `target` collapsed onto `position`. -/
def enterJog (s : State) : State :=
  match s.mode with
  | .jog => s
  | .idle => { startFromIdle s with mode := .jog, motionStartTime := s.now }
  | .move =>
    { s with target := s.position, reversing := false, mode := .jog, motionStartTime := s.now }

/-- The jog release (R182). -/
def releaseJog (s : State) : State :=
  match s.mode with
  | .jog => { s with mode := .idle, brakeHold := false }
  | .idle => s
  | .move => s

/-- `JogArbitrate(demand, now)` (R179). -/
def jogArbitrate (d : Demand) (s : State) : State :=
  match d.dir? with
  | some dir => { enterJog (startBrake s) with direction := dir, prevDemand := d }
  | none => { releaseJog s with prevDemand := d }

end Sys2Proof.Machine
end

