-- ==== Sys2Proof/Machine/Profile.lean ====
section
/-! DEFINITION. Phase 5, the velocity profile (spec: 46_velocity_profile.md R191 to R203). Sums and
products are on unbounded integers, "each result is brought into range by a `min` or `max` before
it is stored" (R191). -/

namespace Sys2Proof.Machine

/-- `stopDist(v)`, whole steps (R193). -/
def stopDist (p : Params) (v : Nat) : Nat := v * v / (2 * p.decel * 10 ^ 12)

/-- `Accel(now)` (R196): the soft-start window is half open. -/
def accel (s : State) : Nat :=
  if elapsed s.now s.motionStartTime < s.params.softStartUs then s.params.aSoft
  else s.params.aSteady

/-- `abs(S.target - S.position)` (R195). -/
def remaining (s : State) : Nat := (s.target.toInt - s.position.toInt).natAbs

/-- The decelerating branch of Move, with its floor and its ceiling (R202, R203). -/
def slowed (dt : Nat) (s : State) : Word :=
  toWord (min s.vMoveMax.toNat (max s.params.vStart (s.currentSpeed.toNat - s.params.decel * dt)))

/-- The reversal flip, where the speed has come down to the start floor (R203). -/
def flipAtFloor (s : State) : State :=
  if s.currentSpeed.toNat ≤ s.params.vStart then
    { s with direction := s.pendingDirection, reversing := false, nextStepDeadline := s.now }
  else s

/-- `Profile(dt, now)` (R195). -/
def profile (dt : Nat) (s : State) : State :=
  match s.mode with
  | .idle => { s with currentSpeed := toWord (s.currentSpeed.toNat - s.params.decel * dt) }
  | .jog =>
    if s.brakeHold then
      { s with currentSpeed := toWord (min s.currentSpeed.toNat s.vJogMax.toNat) }
    else
      { s with currentSpeed := toWord (min s.vJogMax.toNat (s.currentSpeed.toNat + accel s * dt)) }
  | .move =>
    if s.reversing then flipAtFloor { s with currentSpeed := slowed dt s }
    else if remaining s ≤ stopDist s.params s.currentSpeed.toNat + 1 then
      { s with currentSpeed := slowed dt s }
    else
      { s with currentSpeed := toWord (min s.vMoveMax.toNat (s.currentSpeed.toNat + accel s * dt)) }

end Sys2Proof.Machine
end

