-- ==== Sys2Proof/Machine/Tick.lean ====
section
/-! DEFINITION. The control tick in its seven phases (spec: 40_tick_sequence.md R110 to R119), its
preconditions (70_reset_and_hazards.md R275), the line framer's step (30_encoding.md R81), the
reset input (R265), and the output ports (10_state.md R46 to R49). -/

namespace Sys2Proof.Machine

/-- Phase 3 on the lines of `cmds`, oldest first: an unrecognised line is a no-op (R92), a command
is executed to completion before the next line is decoded (R113). -/
def runLines : List Line → State → Host.Outcome State Fault Refusal
  | [], s => .next s
  | l :: ls, s =>
    match decodeLine s.params.lineMax l with
    | none => runLines ls s
    | some i => andThen (exec i s) (runLines ls)

/-- Phases 4 to 6 (R114 to R116), after the last line. -/
def motionPhases (inp : Levels) (dt : Nat) (s : State) : State :=
  emit (profile dt (jogArbitrate (jogDemand inp s) s))

/-- Phase 7 (R117). -/
def endTick (s : State) : State := { s with lastTickTime := s.now }

/-- Which precondition of R275 a tick breaks, if any, the first of them (notes/assumptions/13.md). Item 4, no overlap, cannot be broken: one
tick is one step. -/
def tickRefusal (now : Word) (cmds : List Line) (s : State) : Option Refusal :=
  if now.toNat < s.lastTickTime.toNat then some .timeBackwards
  else if 2 ^ 63 ≤ now.toNat then some .timeOutOfRange
  else if cmds.any (fun l => l.any isTerminator) then some .terminatorInLine
  else none

/-- The tick's inputs, sampled once (R12, R46), with an empty trace (R119). -/
def sampleInputs (now : Word) (inp : Levels) (s : State) : State :=
  { s with
    now := now
    estopSeen := some inp.estop
    trace := []
    drawCount := s.drawCount + 1 }

/-- `tick(S, now, in, cmds)` in full (R119). A closed gate drops `cmds` undecoded (R111, R243). -/
def tick (now : Word) (inp : Levels) (cmds : List Line) (s : State) :
    Host.Outcome State Fault Refusal :=
  match tickRefusal now cmds s with
  | some r => .refused r
  | none =>
    let dt := now.toNat - s.lastTickTime.toNat
    let g := safetyGate inp.estop (sampleInputs now inp s)
    if g.2 then
      andThen (runLines cmds (arbiter inp g.1)) (fun s3 => .next (endTick (motionPhases inp dt s3)))
    else .next (endTick g.1)

/-- Bytes arrive on the command channel (R80, R81): complete lines join the queue, the rest
waits. -/
def receive (bytes : List Byte) (s : State) : State :=
  { s with
    rxPartial := (frameBytes s.rxPartial bytes).2
    lineQueue := s.lineQueue ++ (frameBytes s.rxPartial bytes).1 }

/-- The reset input (R265): the block's state is that of power-up (R266). The parameters and the
environment's side of the ports (framer, queue, script: R52) are not the block's and stay
(notes/assumptions/8.md). -/
def resetBlock (s : State) : State :=
  { State.resetWith s.params with
    rxPartial := s.rxPartial
    lineQueue := s.lineQueue
    script := s.script
    drawCount := s.drawCount + 1 }

/-- One event of the environment. A tick is handed every complete line and consumes them all
(R81, R113). -/
def runEvent (e : Event) (s : State) : Host.Outcome State Fault Refusal :=
  match e with
  | .rx bytes => .next (receive bytes s)
  | .reset => .next (resetBlock s)
  | .tick now inp => tick now inp s.lineQueue { s with lineQueue := [] }

/-- The next event of the script. A configuration outside R10 is refused; with no event supplied
nothing happens ("a tick happens whenever the environment supplies one", R12;
notes/assumptions/3.md). -/
def runScript (s : State) : Host.Outcome State Fault Refusal :=
  if s.params.legal then
    match s.script with
    | [] => .next s
    | e :: rest => runEvent e { s with script := rest }
  else .refused .illegalConfig

/-- A tick that finds the gate open once the drive is enabled: no input level asserted, at the
first time that is neither before the last tick nor inside the settle delay (R242, R275). -/
def openTick (s : State) : Event :=
  .tick (toWord (max s.lastTickTime.toNat (s.settleStart.toNat + s.params.settleUs)))
    { jogLeftBtn := false, jogRightBtn := false, homeBtn := false, wellBtn := false, estop := false }

/-! ### Output ports -/

/-- One action on the pins, in order (R47). -/
inductive PinEvent where
  /-- DIR is set to a level. -/
  | dir (level : Bool)
  /-- The pins hold for a time, us. -/
  | hold (us : Nat)
  /-- STEP is set to a level. -/
  | step (level : Bool)
  deriving DecidableEq, Repr

/-- What one pulse of the trace does on the pins (R47): DIR, its set-up time, STEP high for the
pulse width, STEP low. An order, not a timing (R284; notes/assumptions/12.md). -/
def pulsePins (p : Params) (d : Dir) : List PinEvent :=
  [.dir (d.bit ^^ p.dirInvert), .hold p.dirSetupUs, .step true, .hold p.pulseWidthUs, .step false]

/-- The pin activity of the last tick (R47). -/
def State.pins (s : State) : List PinEvent := s.trace.flatMap (pulsePins s.params)

/-- DIR pin (R48). -/
def State.dirPin (s : State) : Bool := s.dirOut ^^ s.params.dirInvert

/-- ENABLE pin (R48). -/
def State.enablePin (s : State) : Bool := s.enabled ^^ s.params.enableActiveLow

/-- The status port (R49). -/
structure Status where
  position : Word
  mode : BitVec 2
  speed : Word
  homeSaved : Bool
  homeSteps : Word
  wellSaved : Bool
  wellSteps : Word
  estop : Bool
  reversing : Bool
  direction : Bool
  target : Word
  commandedTarget : Word
  deriving DecidableEq, Repr

/-- The steps of a slot as the status port shows them: a free value while the slot is not saved
(R49; 93_implementation_defined.md U1). -/
def State.statusSteps (s : State) (k : Slot) : Word :=
  if (s.slot k).saved then (s.slot k).steps else Config.freeSteps s.drawCount k.index

/-- The status values at the end of a tick (R49, R117); `status.estop` is a free value until the
first tick has sampled the input (R267; U8). -/
def State.status (s : State) : Status where
  position := s.position
  mode := s.mode.code
  speed := s.currentSpeed
  homeSaved := s.slotHome.saved
  homeSteps := s.statusSteps .home
  wellSaved := s.slotWell.saved
  wellSteps := s.statusSteps .well
  estop := s.estopSeen.getD (Config.freeEstop s.drawCount)
  reversing := s.reversing
  direction := s.direction.bit
  target := s.target
  commandedTarget := s.commandedTarget

/-- The outputs of a tick, `out` of R119, with the STEP pin's level between pulses (R47). -/
structure Outputs where
  trace : List Dir
  pins : List PinEvent
  stepPin : Bool
  dirPin : Bool
  enablePin : Bool
  status : Status
  deriving DecidableEq, Repr

/-- `out` of R119. -/
def State.outputs (s : State) : Outputs where
  trace := s.trace
  pins := s.pins
  stepPin := s.stepOut
  dirPin := s.dirPin
  enablePin := s.enablePin
  status := s.status

end Sys2Proof.Machine
end

