-- ==== Sys2Proof/Machine/Step.lean ====
section
/-! DEFINITION. The step: one event of the environment, a control tick among them (spec:
00_scope.md R12); and the placing of one command where the next step executes it. -/

namespace Sys2Proof.Machine

/-- One step (R12, R119). -/
def step (s : State) : Host.Outcome State Fault Refusal := runScript s

/-- `s` with the table's word as the one queued line and a tick in front of the script that
executes it: the drive enabled, the settle delay over, no input level asserted
(notes/assumptions/10.md). -/
def State.withFetchWord (s : State) (nbits w : Nat) : State :=
  { s with
    enabled := true
    lineQueue := [lineOfTableWord nbits w]
    script := openTick s :: s.script }

end Sys2Proof.Machine
end

