-- ==== Sys2Proof/WellFormed.lean ====
section
/-! DEFINITION. Which commands a line of at most `LINE_MAX` bytes can spell (spec: 30_encoding.md
R82, R83, R86, R88). The test is numeric, and written apart from the decoder and the encoder. -/

namespace Sys2Proof

/-- A signed-int numeral of at most `m` bytes spells `v` (R86): one byte goes to the sign of a
negative number, and `d` digits reach the numbers below `10 ^ d`. -/
def fitsInt (m : Nat) (v : Int) : Bool :=
  if v < 0 then decide (2 ≤ m) && decide (v.natAbs < 10 ^ (m - 1))
  else decide (1 ≤ m) && decide (v.natAbs < 10 ^ m)

/-- A decimal numeral of at most `m` bytes with `k` digits after its point spells the uSPS value
`v` (R88); `k = 0` stands for a numeral with no point. -/
def fitsDecWith (m v k : Nat) : Bool :=
  if k = 0 then decide (1 ≤ m) && decide (v % 10 ^ 6 = 0) && decide (v / 10 ^ 6 < 10 ^ m)
  else decide (k + 1 ≤ m) && decide (v % 10 ^ (6 - k) = 0) && decide (v / 10 ^ 6 < 10 ^ (m - 1 - k))

/-- Some decimal numeral of at most `m` bytes spells `v` (R88): digits after the sixth are
dropped, so at most six matter. -/
def fitsDec (m v : Nat) : Bool :=
  [0, 1, 2, 3, 4, 5, 6].any (fitsDecWith m v)

/-- The command has a spelling of at most `lineMax` bytes, two of them its opcode (R82, R83). -/
def Instr.wellFormed (lineMax : Nat) : Instr → Bool
  | .jl | .jr | .js | .st | .gh | .gw | .sh | .sw => decide (2 ≤ lineMax)
  | .gt v | .mr v => decide (2 ≤ lineMax) && fitsInt (lineMax - 2) v
  | .vj v | .vm v => decide (2 ≤ lineMax) && fitsDec (lineMax - 2) v

end Sys2Proof
end

