-- ==== Sys2Proof/Safety.lean ====
section
/-! DEFINITION. What a sound state and a defined tick are, in the terms the statements use. Nothing
here is called by the machine. -/

namespace Sys2Proof.Machine

/-- Digit bytes only (R86, R88); written apart from the decoder. -/
abbrev digitsOnly (ds : List Byte) : Prop := ∀ d ∈ ds, 0x30 ≤ d.toNat ∧ d.toNat ≤ 0x39

/-- The number that digit bytes spell in base ten, most significant digit first (R86); Mathlib's
numeral, least significant digit first, on the reversed text. -/
def spelled (ds : List Byte) : Nat := Nat.ofDigits 10 (ds.reverse.map (fun d => d.toNat - 0x30))

/-- R86 as a relation: the argument text is a signed-int numeral that spells `v`. -/
abbrev SpellsInt (arg : List Byte) (v : Int) : Prop :=
  ∃ ds : List Byte, ds ≠ [] ∧ digitsOnly ds ∧
    ((arg = ds ∧ v = spelled ds) ∨ (arg = 0x2B#8 :: ds ∧ v = spelled ds) ∨
      (arg = 0x2D#8 :: ds ∧ v = -(spelled ds : Int)))

/-- R88 as a relation: the argument text is a decimal numeral that spells `v` uSPS. Of the digits
after the point the first six count, padded on the right. -/
abbrev SpellsUsps (arg : List Byte) (v : Nat) : Prop :=
  (arg ≠ [] ∧ digitsOnly arg ∧ v = spelled arg * 1000000) ∨
  ∃ is fs : List Byte, arg = is ++ 0x2E#8 :: fs ∧ digitsOnly is ∧ digitsOnly fs ∧
    (is ≠ [] ∨ fs ≠ []) ∧
    v = spelled is * 1000000 + spelled ((fs ++ List.replicate 6 0x30#8).take 6)

/-- No byte of the line ends a line (R81, R275 item 3). -/
def lineClean (l : Line) : Bool := l.all (fun b => !isTerminator b)

/-- The preconditions of a tick that is handed the queued lines (R10, R275 items 1 to 3). -/
abbrev TickDefined (now : Word) (s : State) : Prop :=
  s.params.legal = true ∧ s.lastTickTime.toNat ≤ now.toNat ∧ now.toNat < 2 ^ 63 ∧
    s.lineQueue.all lineClean = true

/-- The next event of the script is the tick `now`, `inp`; `rest` comes after it. -/
abbrev NextIsTick (now : Word) (inp : Levels) (rest : List Event) (s : State) : Prop :=
  s.script = .tick now inp :: rest

/-- The gate of a tick is open: no trip, and the settle delay, counted from this tick where the
drive is still disabled, is over (R239 to R242). -/
abbrev GateOpens (now : Word) (inp : Levels) (s : State) : Prop :=
  inp.estop = false ∧
    (s.enabled = true → s.settleStart.toNat + s.params.settleUs ≤ now.toNat) ∧
    (s.enabled = false → s.params.settleUs = 0)

/-- The state phase 2 of an open-gate tick starts from: inputs sampled, the drive enabled, the
lines taken from the queue, the event from the script. -/
def opened (now : Word) (inp : Levels) (rest : List Event) (s : State) : State :=
  { s with
    script := rest
    lineQueue := []
    now := now
    estopSeen := some inp.estop
    trace := []
    drawCount := s.drawCount + 1
    enabled := true
    settleStart := if s.enabled then s.settleStart else now }

/-- The target a command asks a Move for, where it asks for one (R155 to R158): `GT` its operand,
`MR` the sum with the position, both inside signed 64 bits; `GH` and `GW` a saved slot. -/
def requestedTarget (s : State) : Instr → Option Word
  | .gt v => if -(2 ^ 63) ≤ v ∧ v < 2 ^ 63 then some (BitVec.ofInt 64 v) else none
  | .mr v =>
    if -(2 ^ 63) ≤ s.position.toInt + v ∧ s.position.toInt + v < 2 ^ 63 then
      some (BitVec.ofInt 64 (s.position.toInt + v))
    else none
  | .gh => if s.slotHome.saved then some s.slotHome.steps else none
  | .gw => if s.slotWell.saved then some s.slotWell.steps else none
  | .jl | .jr | .js | .st | .sh | .sw | .vj _ | .vm _ => none

/-- The four commands that ask for a Move (R155 to R158). -/
def isMoveCommand : Instr → Bool
  | .gt _ | .mr _ | .gh | .gw => true
  | .jl | .jr | .js | .st | .sh | .sw | .vj _ | .vm _ => false

/-- Travel from the position to `t` goes right (R19). -/
abbrev liesRight (s : State) (t : Word) : Prop := s.position.toInt < t.toInt

/-- The sum of a trace's directions, in steps (R229 item 2). -/
def netSteps : List Dir → Int
  | [] => 0
  | d :: ds => d.val + netSteps ds

/-- A position button's record is at rest: released, and nothing pending (R33). -/
def ButtonState.up (b : ButtonState) : Bool := !b.raw && !b.stable && !b.lastStable

/-- Both position buttons are at rest. -/
def buttonsUp (s : State) : Bool := s.btnHome.up && s.btnWell.up

/-- No input level is asserted. -/
def noInputs : Levels :=
  { jogLeftBtn := false, jogRightBtn := false, homeBtn := false, wellBtn := false, estop := false }

/-- Quiescent (R121): Idle at zero speed, no remote jog, no line queued. -/
abbrev quiescent (s : State) : Prop :=
  s.mode = .idle ∧ s.currentSpeed = 0#64 ∧ s.remoteJogLeft = false ∧ s.remoteJogRight = false ∧
    s.lineQueue = []

/-- What holds after every event (R51 items 1, 3, 4, 5, 7, 8, with what carries them from one
tick to the next). -/
structure Inv (s : State) : Prop where
  /-- R10. -/
  legal : s.params.legal = true
  /-- R51 item 1. -/
  reversing_move : s.reversing = true → s.mode = .move
  /-- R51 item 3. -/
  jog_ceiling : s.mode = .jog → s.currentSpeed.toNat ≤ s.vJogMax.toNat
  /-- R51 item 3. -/
  move_ceiling : s.mode = .move → s.currentSpeed.toNat ≤ s.vMoveMax.toNat
  /-- R51 item 4. -/
  speed_floor : s.mode ≠ .idle → s.params.vStart ≤ s.currentSpeed.toNat
  /-- R51 item 5. -/
  one_remote : ¬ (s.remoteJogLeft = true ∧ s.remoteJogRight = true)
  /-- R51 item 7, between ticks. -/
  schedule_ahead : s.mode ≠ .idle → s.brakeHold = false →
    s.lastTickTime.toNat < s.nextStepDeadline.toNat
  /-- R51 item 8. -/
  jog_range : s.params.vAcceptMin ≤ s.vJogMax.toNat ∧ s.vJogMax.toNat ≤ s.params.vAcceptMax
  /-- R51 item 8. -/
  move_range : s.params.vAcceptMin ≤ s.vMoveMax.toNat ∧ s.vMoveMax.toNat ≤ s.params.vAcceptMax
  /-- A disabled drive is in Idle (R240, C6). -/
  disabled_idle : s.enabled = false → s.mode = .idle
  /-- A settling drive is in Idle (R242). -/
  settling_idle : s.lastTickTime.toNat < s.settleStart.toNat + s.params.settleUs → s.mode = .idle
  /-- Jog is exactly where the last demand was not neutral, and goes its way (R181 to R183). -/
  jog_follows : if s.mode = .jog then s.prevDemand.dir? = some s.direction
    else s.prevDemand = .neutral
  /-- R130. -/
  home_settled : s.btnHome.lastStable = s.btnHome.stable
  /-- R130. -/
  well_settled : s.btnWell.lastStable = s.btnWell.stable
  /-- R275 item 2. -/
  clock_range : s.lastTickTime.toNat < 2 ^ 63
  /-- No stored time is ahead of the clock (R250). -/
  stamps : s.motionStartTime.toNat ≤ s.lastTickTime.toNat ∧
    s.settleStart.toNat ≤ s.lastTickTime.toNat ∧ s.brakeStart.toNat ≤ s.lastTickTime.toNat ∧
    s.btnHome.lastTransition.toNat ≤ s.lastTickTime.toNat ∧
    s.btnHome.pressStart.toNat ≤ s.lastTickTime.toNat ∧
    s.btnWell.lastTransition.toNat ≤ s.lastTickTime.toNat ∧
    s.btnWell.pressStart.toNat ≤ s.lastTickTime.toNat
  /-- R47, R229 item 1. -/
  trace_bound : s.trace.length ≤ s.params.nMaxPulses
  /-- STEP idles low (R47). -/
  step_low : s.stepOut = false
  /-- The framer hands over lines without terminators (R81, R275 item 3). -/
  lines_clean : s.lineQueue.all lineClean = true ∧ lineClean s.rxPartial = true

/-- R51 item 2, and what it means while a reversal is in progress: the target lies on the side of
the pending direction, which is not the current one. -/
abbrev Aimed (s : State) : Prop :=
  s.mode = .move →
    s.position ≠ s.target ∧
      dirOf (s.target.toInt - s.position.toInt) =
        (if s.reversing then s.pendingDirection else s.direction) ∧
      (s.reversing = true → s.pendingDirection ≠ s.direction)

/-- The position is further from both ends of its range than one tick can travel (R224). -/
abbrev awayFromEnds (s : State) : Prop :=
  -(2 ^ 63) ≤ s.position.toInt - s.params.nMaxPulses ∧
    s.position.toInt + s.params.nMaxPulses < 2 ^ 63

end Sys2Proof.Machine
end

