-- ==== Sys2Proof/Certificates/Slice0/Obligations.lean ====
section
/-! DEFINITION. The statements about the model. Every one quantifies over the parameters: nothing
rests on the configuration of `State.reset` (notes/assumptions/1.md). -/

open Sys2Proof Sys2Proof.Machine

/-! ### Decoding -/

/-- The example spellings of R83, R87, R89 and R90, byte by byte, under any line limit they fit. The
byte values are G1's, PRESUMED (notes/assumptions/14.md). -/
def Obligations.ExampleLinesDecode : Prop :=
  ∀ lineMax : Nat, 7 ≤ lineMax →
    decodeLine lineMax [0x4A#8, 0x4C#8] = some .jl ∧
    decodeLine lineMax [0x4A#8, 0x52#8] = some .jr ∧
    decodeLine lineMax [0x4A#8, 0x53#8] = some .js ∧
    decodeLine lineMax [0x53#8, 0x54#8] = some .st ∧
    decodeLine lineMax [0x47#8, 0x48#8] = some .gh ∧
    decodeLine lineMax [0x47#8, 0x57#8] = some .gw ∧
    decodeLine lineMax [0x53#8, 0x48#8] = some .sh ∧
    decodeLine lineMax [0x53#8, 0x57#8] = some .sw ∧
    decodeLine lineMax [0x47#8, 0x54#8, 0x2D#8, 0x35#8, 0x30#8, 0x30#8, 0x30#8]
      = some (.gt (-5000)) ∧
    decodeLine lineMax [0x4D#8, 0x52#8, 0x2B#8, 0x31#8, 0x32#8] = some (.mr 12) ∧
    decodeLine lineMax [0x56#8, 0x4A#8, 0x2E#8, 0x32#8, 0x35#8] = some (.vj 250000) ∧
    decodeLine lineMax [0x56#8, 0x4D#8, 0x38#8, 0x30#8, 0x30#8, 0x2E#8, 0x35#8]
      = some (.vm 800500000)

/-- Decode of encode is the identity on every command that a line of `lineMax` bytes can spell
(R82 to R95): no digit of any operand is dropped. -/
def Obligations.DecodeOfEncode : Prop :=
  ∀ (lineMax : Nat) (i : Instr), i.wellFormed lineMax = true →
    decodeLine lineMax (encode i) = some i

/-- Every line that decodes spells a command the numeric test admits, and the encoder's line for
that command is no longer than it (R82, R86, R88). -/
def Obligations.DecodedIsWellFormedAndEncodeShortest : Prop :=
  ∀ (lineMax : Nat) (b : Line) (i : Instr), decodeLine lineMax b = some i →
    i.wellFormed lineMax = true ∧ (encode i).length ≤ b.length

/-- R90, R91, R94: a line is a command only where its first two bytes are that command's opcode; every
other two-byte value is unrecognised. The opcodes' numbers are G1's, PRESUMED
(notes/assumptions/14.md). -/
def Obligations.OnlyTwelveOpcodesDecode : Prop :=
  (∀ (lineMax : Nat) (b : Line) (i : Instr), decodeLine lineMax b = some i →
    ∃ (b0 b1 : Byte) (arg : List Byte), b = b0 :: b1 :: arg ∧
      b0.toNat * 256 + b1.toNat = i.opcode16) ∧
  (∀ (lineMax : Nat) (b0 b1 : Byte) (arg : List Byte),
    b0.toNat * 256 + b1.toNat ∉ [0x4A4C, 0x4A52, 0x4A53, 0x5354, 0x4754, 0x4D52, 0x4748, 0x4757,
      0x5348, 0x5357, 0x564A, 0x564D] →
    decodeLine lineMax (b0 :: b1 :: arg) = none)

/-- R82, R84, R85, R93: text after a `BARE` opcode, a space, a control byte or a byte of `80` and
above anywhere, and more than `LINE_MAX` bytes make a line unrecognised. The exact match is the spec's
own decision D17, the limit D12. That the bytes up to `20` and from `7F` on are blanks, controls and
high bytes, and the opcodes' numbers, are the code points of G1, PRESUMED (notes/assumptions/14.md); of
control and high bytes the spec's R93 says so as its own inference. -/
def Obligations.TrailingTextAndBlanksUnrecognised : Prop :=
  (∀ (lineMax : Nat) (op : Nat) (b0 b1 x : Byte) (arg : List Byte),
    b0.toNat * 256 + b1.toNat = op →
    op ∈ [0x4A4C, 0x4A52, 0x4A53, 0x5354, 0x4748, 0x4757, 0x5348, 0x5357] →
    decodeLine lineMax (b0 :: b1 :: x :: arg) = none) ∧
  (∀ (lineMax : Nat) (b : Line) (x : Byte), x ∈ b → (x.toNat ≤ 0x20 ∨ 0x7F ≤ x.toNat) →
    decodeLine lineMax b = none) ∧
  (∀ (lineMax : Nat) (b : Line), lineMax < b.length → decodeLine lineMax b = none)

/-- R86, R93: what the argument of `GT` and `MR` is worth, in every spelling (a leading `+`, leading
zeros), and that an argument of any other form, the empty one too, makes the line unrecognised. The
grammar is decision D18, the byte values G1's (notes/assumptions/14.md). -/
def Obligations.SignedNumeralValues : Prop :=
  ∀ (lineMax : Nat) (arg : List Byte), arg.length + 2 ≤ lineMax →
    (∀ v : Int,
      (decodeLine lineMax (0x47#8 :: 0x54#8 :: arg) = some (.gt v) ↔ SpellsInt arg v) ∧
      (decodeLine lineMax (0x4D#8 :: 0x52#8 :: arg) = some (.mr v) ↔ SpellsInt arg v)) ∧
    ((∀ v : Int, ¬ SpellsInt arg v) →
      decodeLine lineMax (0x47#8 :: 0x54#8 :: arg) = none ∧
      decodeLine lineMax (0x4D#8 :: 0x52#8 :: arg) = none)

/-- R88, R93: what the argument of `VJ` and `VM` is worth, in every spelling (leading zeros, a point
with no digit on one side, digits past the sixth), and that an argument of any other form makes the
line unrecognised. Grammar, scaling and truncation are decision D19, the byte values G1's
(notes/assumptions/14.md). -/
def Obligations.DecimalNumeralValues : Prop :=
  ∀ (lineMax : Nat) (arg : List Byte), arg.length + 2 ≤ lineMax →
    (∀ v : Nat,
      (decodeLine lineMax (0x56#8 :: 0x4A#8 :: arg) = some (.vj v) ↔ SpellsUsps arg v) ∧
      (decodeLine lineMax (0x56#8 :: 0x4D#8 :: arg) = some (.vm v) ↔ SpellsUsps arg v)) ∧
    ((∀ v : Nat, ¬ SpellsUsps arg v) →
      decodeLine lineMax (0x56#8 :: 0x4A#8 :: arg) = none ∧
      decodeLine lineMax (0x56#8 :: 0x4D#8 :: arg) = none)

/-! ### Framing -/

/-- R81 on one byte stream: the bytes before an `0A` or an `0D`, in arrival order and without it, are
one line; bytes with neither after them wait, so no other byte ends a line. The last clause says the
same of the test that TickDefined makes on queued lines. Which bytes terminate is decision D16, their
values are G1's (notes/assumptions/14.md). -/
def Obligations.TerminatorEndsOneLine : Prop :=
  (∀ (cur l rest : List Byte) (t : Byte), 0x0A#8 ∉ l → 0x0D#8 ∉ l → t = 0x0A#8 ∨ t = 0x0D#8 →
    frameBytes cur (l ++ t :: rest) =
      ((cur ++ l) :: (frameBytes [] rest).1, (frameBytes [] rest).2)) ∧
  (∀ cur l : List Byte, 0x0A#8 ∉ l → 0x0D#8 ∉ l → frameBytes cur l = ([], cur ++ l)) ∧
  (∀ l : Line, lineClean l = true ↔ 0x0A#8 ∉ l ∧ 0x0D#8 ∉ l)

/-- R81: how the byte stream is cut into arrivals changes no line. -/
def Obligations.FramingIgnoresArrivalCuts : Prop :=
  ∀ (s : State) (xs ys : List Byte), receive (xs ++ ys) s = receive ys (receive xs s)

/-! ### The commands -/

/-- R145, R146, R147: `JL`, `JR`, `JS` write the two remote flags and nothing else, and each always
completes; the demand `JL` or `JR` leaves is its own side unless a button on the other side is held,
and `JS` leaves the demand of the buttons alone. -/
def Obligations.RemoteJogCommands : Prop :=
  ∀ (s : State) (inp : Levels),
    (∃ t, exec .jl s = .next t ∧ t = { s with remoteJogLeft := true, remoteJogRight := false } ∧
      jogDemand inp t = if inp.jogRightBtn then .neutral else .left) ∧
    (∃ t, exec .jr s = .next t ∧ t = { s with remoteJogLeft := false, remoteJogRight := true } ∧
      jogDemand inp t = if inp.jogLeftBtn then .neutral else .right) ∧
    (∃ t, exec .js s = .next t ∧ t = { s with remoteJogLeft := false, remoteJogRight := false } ∧
      jogDemand inp t =
        (if inp.jogLeftBtn = inp.jogRightBtn then .neutral
         else if inp.jogLeftBtn then .left else .right))

/-- R148: `ST` clears the remote flags; in Move it also collapses the targets onto the position and
goes to Idle, speed and schedule kept. The stop at once is decision D23. -/
def Obligations.StopCommand : Prop :=
  ∀ s : State,
    exec .st s = .next
      (if s.mode = .move then
        { s with
          remoteJogLeft := false
          remoteJogRight := false
          target := s.position
          commandedTarget := s.position
          reversing := false
          mode := .idle }
       else { s with remoteJogLeft := false, remoteJogRight := false })

/-- R155 to R158, R165, R178 case 2 from Idle, for all four move commands: a new episode at the start
speed, scheduled now (D28); nothing else changes. -/
def Obligations.MoveCommandFromIdle : Prop :=
  ∀ (i : Instr) (s : State) (t : Word), requestedTarget s i = some t → s.mode = .idle →
    t ≠ s.position →
    exec i s = .next
      { s with
        target := t
        commandedTarget := t
        direction := if s.position.toInt < t.toInt then .right else .left
        reversing := false
        mode := .move
        motionStartTime := s.now
        currentSpeed := BitVec.ofNat 64 s.params.vStart
        nextStepDeadline := s.now }

/-- R178 case 2 from Jog: speed and schedule are kept, the direction is set at once (D27). -/
def Obligations.MoveCommandFromJog : Prop :=
  ∀ (i : Instr) (s : State) (t : Word), requestedTarget s i = some t → s.mode = .jog →
    t ≠ s.position →
    exec i s = .next
      { s with
        target := t
        commandedTarget := t
        direction := if s.position.toInt < t.toInt then .right else .left
        reversing := false
        mode := .move
        motionStartTime := s.now }

/-- R178 cases 3, 4, 5: a request in Move writes both targets and never restarts the soft-start
timer; onto the position it stops (D23), the same way it goes on, the other way it starts a
reversal without flipping the direction. -/
def Obligations.RetargetInMove : Prop :=
  ∀ (i : Instr) (s : State) (t : Word), requestedTarget s i = some t → s.mode = .move →
    (t = s.position →
      exec i s = .next
        { s with target := t, commandedTarget := t, reversing := false, mode := .idle }) ∧
    (liesRight s t → s.direction = .right →
      exec i s = .next { s with target := t, commandedTarget := t, reversing := false }) ∧
    (t.toInt < s.position.toInt → s.direction = .left →
      exec i s = .next { s with target := t, commandedTarget := t, reversing := false }) ∧
    (liesRight s t → s.direction = .left →
      exec i s = .next
        { s with target := t, commandedTarget := t, reversing := true, pendingDirection := .right }) ∧
    (t.toInt < s.position.toInt → s.direction = .right →
      exec i s = .next
        { s with target := t, commandedTarget := t, reversing := true, pendingDirection := .left })

/-- R155, R156, R165, R178 case 1: a move command with no target (an operand outside 64 bits, D24; an
unsaved slot) changes nothing in any mode, nor does one onto the position in Idle or Jog (D26). -/
def Obligations.MoveCommandNoOps : Prop :=
  ∀ (i : Instr) (s : State), isMoveCommand i = true →
    (requestedTarget s i = none → exec i s = .next s) ∧
    (requestedTarget s i = some s.position → s.mode ≠ .move → exec i s = .next s)

/-- R169, R170, R166: `SH` and `SW` save the position in their own slot, in every mode, and change
nothing else. -/
def Obligations.SaveCommands : Prop :=
  ∀ s : State,
    exec .sh s = .next { s with slotHome := { steps := s.position, saved := true } } ∧
    exec .sw s = .next { s with slotWell := { steps := s.position, saved := true } }

/-- R157, R158, R165: `GH` and `GW` do what `GT` of their own saved slot does, in every mode, and
nothing where that slot is unsaved. -/
def Obligations.RecallIsGoToSavedSlot : Prop :=
  ∀ s : State,
    exec .gh s = (if s.slotHome.saved then exec (.gt s.slotHome.steps.toInt) s else .next s) ∧
    exec .gw s = (if s.slotWell.saved then exec (.gt s.slotWell.steps.toInt) s else .next s)

/-- R167, R168: `VJ` and `VM` store a value of the accepted range in their own ceiling and ignore any
other value. That both bounds are inclusive is decision D25. -/
def Obligations.CeilingCommands : Prop :=
  ∀ (s : State) (v : Nat),
    (s.params.vAcceptMin ≤ v → v ≤ s.params.vAcceptMax →
      exec (.vj v) s = .next { s with vJogMax := BitVec.ofNat 64 v } ∧
      exec (.vm v) s = .next { s with vMoveMax := BitVec.ofNat 64 v }) ∧
    (v < s.params.vAcceptMin ∨ s.params.vAcceptMax < v →
      exec (.vj v) s = .next s ∧ exec (.vm v) s = .next s)

/-- R70, R169, R170: a save is seen by a recall of the same tick, which then asks for the position
itself: nothing in Idle or Jog, a stop in Move. -/
def Obligations.RecallSeesSaveOfSameTick : Prop :=
  ∀ s t u : State, exec .sh s = .next t → exec .sw t = .next u →
    ∀ i, i = .gh ∨ i = .gw →
      exec i u = .next
        (if s.mode = .move then
          { u with
            target := s.position
            commandedTarget := s.position
            reversing := false
            mode := .idle }
         else u)

/-! ### The tick -/

/-- R10, R236, R275 (D4, D40): a step whose next event is a tick answers a next state exactly where
the tick is defined, and is refused where it is not; it never faults. That a refusal bears the name of a
precondition the tick breaks is the model's choice, DESIGN CHOICE of notes/assumptions/13.md: the spec
names no reason. -/
def Obligations.TickRefusedExactlyWhenUndefined : Prop :=
  ∀ (s : State) (now : Word) (inp : Levels) (rest : List Event), NextIsTick now inp rest s →
    ((∃ t, step s = .next t) ↔ TickDefined now s) ∧
    (∀ f, step s ≠ .fault f) ∧
    (∀ r, step s = .refused r →
      (r = .illegalConfig ∧ s.params.legal = false) ∨
      (r = .timeBackwards ∧ now.toNat < s.lastTickTime.toNat) ∨
      (r = .timeOutOfRange ∧ 2 ^ 63 ≤ now.toNat) ∨
      (r = .terminatorInLine ∧ s.lineQueue.all lineClean = false))

/-- R10, R12, R81, R265: the steps that are no tick. Bytes only reach the framer, a reset leaves the
table of R50 and the environment's side, no event changes nothing; an illegal configuration refuses
all of them, under a name that is the model's choice (notes/assumptions/13.md). The reset input is
decision D39; what a step with no event does is the model's choice (notes/assumptions/3.md), and so is
what a reset leaves (notes/assumptions/8.md). -/
def Obligations.StepsThatAreNoTick : Prop :=
  ∀ s : State,
    (s.params.legal = false → step s = .refused .illegalConfig) ∧
    (s.params.legal = true → s.script = [] → step s = .next s) ∧
    (s.params.legal = true → ∀ bytes rest, s.script = .rx bytes :: rest →
      step s = .next
        { s with
          script := rest
          rxPartial := (frameBytes s.rxPartial bytes).2
          lineQueue := s.lineQueue ++ (frameBytes s.rxPartial bytes).1 }) ∧
    (s.params.legal = true → ∀ rest, s.script = .reset :: rest →
      step s = .next
        { State.resetWith s.params with
          script := rest
          rxPartial := s.rxPartial
          lineQueue := s.lineQueue
          drawCount := s.drawCount + 1 })

/-- R119: an open-gate tick runs phase 2, home before well (R112, D15), then the queued lines, then
phases 4 to 6, then phase 7, in that order. -/
def Obligations.OpenTickRunsPhasesInOrder : Prop :=
  ∀ (s : State) (now : Word) (inp : Levels) (rest : List Event), NextIsTick now inp rest s →
    TickDefined now s → GateOpens now inp s →
    ∃ u,
      runLines s.lineQueue
        (serveButton .well inp.wellBtn
          (serveButton .home inp.homeBtn (opened now inp rest s))) = .next u ∧
      step s = .next
        { emit (profile (now.toNat - s.lastTickTime.toNat) (jogArbitrate (jogDemand inp u) u)) with
          lastTickTime := now }

/-- R113: a step runs the decoded command: where the one queued line decodes to `i`, the tick is
`exec i` with phases 1 and 2 before it and 4 to 7 after it. -/
def Obligations.StepRunsDecodedCommand : Prop :=
  ∀ (s : State) (now : Word) (inp : Levels) (rest : List Event) (l : Line) (i : Instr),
    NextIsTick now inp rest s → s.lineQueue = [l] → TickDefined now s → GateOpens now inp s →
    decodeLine s.params.lineMax l = some i →
    ∃ u,
      exec i
        (serveButton .well inp.wellBtn
          (serveButton .home inp.homeBtn (opened now inp rest s))) = .next u ∧
      step s = .next
        { emit (profile (now.toNat - s.lastTickTime.toNat) (jogArbitrate (jogDemand inp u) u)) with
          lastTickTime := now }

/-- R113, R149: the lines of a tick run in arrival order, each to completion before the next; what
the first ones leave is what the next ones start from. -/
def Obligations.LinesRunInArrivalOrder : Prop :=
  (∀ (as bs : List Line) (s : State),
    runLines (as ++ bs) s = andThen (runLines as s) (runLines bs)) ∧
  (∀ (l : Line) (i : Instr) (s : State), decodeLine s.params.lineMax l = some i →
    runLines [l] s = exec i s)

/-- R92: an unrecognised line is a no-op, and the lines around it run as if it had not been there. -/
def Obligations.UnrecognisedLineIsNoOp : Prop :=
  ∀ (as bs : List Line) (l : Line) (s : State), decodeLine s.params.lineMax l = none →
    runLines (as ++ l :: bs) s = runLines (as ++ bs) s

/-- R240, R243: the trip, whole tick: what it forces (D37 names what the spec adds to DART's three),
the queued lines lost, everything else left. -/
def Obligations.TripTick : Prop :=
  ∀ (s : State) (now : Word) (inp : Levels) (rest : List Event), NextIsTick now inp rest s →
    TickDefined now s → inp.estop = true →
    ∃ t, step s = .next t ∧ t.enablePin = s.params.enableActiveLow ∧
      t = { s with
        script := rest
        lineQueue := []
        now := now
        lastTickTime := now
        estopSeen := some true
        trace := []
        drawCount := s.drawCount + 1
        enabled := false
        mode := .idle
        currentSpeed := 0#64
        reversing := false
        target := s.position
        remoteJogLeft := false
        remoteJogRight := false
        prevDemand := .neutral
        brakeHold := false }

/-- R241, R242, R243: a tick with no trip and a closed gate enables the drive where it is disabled,
starting the settle delay (D10, D38), drops the queued lines (D20) and changes nothing else. -/
def Obligations.SettlingTick : Prop :=
  ∀ (s : State) (now : Word) (inp : Levels) (rest : List Event), NextIsTick now inp rest s →
    TickDefined now s → inp.estop = false → ¬ GateOpens now inp s →
    step s = .next
      { s with
        script := rest
        lineQueue := []
        now := now
        lastTickTime := now
        estopSeen := some false
        trace := []
        drawCount := s.drawCount + 1
        enabled := true
        settleStart := if s.enabled then s.settleStart else now }

/-- R243, D20: what the remote side says while the gate is closed has no effect: two machines that
differ only in their queued lines and in the levels of the buttons become equal. -/
def Obligations.ClosedGateHidesCommandsAndButtons : Prop :=
  ∀ (s : State) (now : Word) (inp inp' : Levels) (rest : List Event) (lines : List Line),
    NextIsTick now inp rest s → TickDefined now s → lines.all lineClean = true →
    inp'.estop = inp.estop → ¬ GateOpens now inp s →
    step { s with lineQueue := lines, script := .tick now inp' :: rest } = step s

/-! ### The Input Arbiter -/

/-- R126, R127, R130: a button's stable level changes exactly where the sampled level differs from it
and has persisted: for `DEBOUNCE_US` since it was first sampled, or at once where that is zero.
`lastStable` follows. -/
def Obligations.DebounceAcceptsPersistentLevel : Prop :=
  ∀ (p : Params) (sample : Bool) (now : Word) (b : ButtonState),
    ((debounce p sample now b).1.stable ≠ b.stable ↔
      sample ≠ b.stable ∧
        (if sample = b.raw then b.lastTransition.toNat + p.debounceUs ≤ now.toNat
         else p.debounceUs = 0)) ∧
    (debounce p sample now b).1.lastStable = (debounce p sample now b).1.stable ∧
    (debounce p sample now b).1.raw = sample ∧
    (debounce p sample now b).1.lastTransition = (if sample = b.raw then b.lastTransition else now)

/-- R128, R129: the long-press flag and the three kinds of tick a record can have. `flagged` is the
flag as step 3 leaves it, judged on the level held up to now. A press records its start and clears
the flag; a release reports a long press where the press is flagged, else a tap, and leaves the flag;
with no edge nothing is reported. -/
def Obligations.DebounceFlagAndEvents : Prop :=
  ∀ (p : Params) (sample : Bool) (now : Word) (b : ButtonState) (flagged : Bool),
    b.lastStable = b.stable →
    (flagged = true ↔
      b.longFlag = true ∨ (b.stable = true ∧ b.pressStart.toNat + p.longPressUs ≤ now.toNat)) →
    (b.stable = false → (debounce p sample now b).1.stable = true →
      (debounce p sample now b).2 = none ∧ (debounce p sample now b).1.pressStart = now ∧
        (debounce p sample now b).1.longFlag = false) ∧
    (b.stable = true → (debounce p sample now b).1.stable = false →
      (debounce p sample now b).2 = some (if flagged then .longPress else .tap) ∧
        (debounce p sample now b).1.pressStart = b.pressStart ∧
        (debounce p sample now b).1.longFlag = flagged) ∧
    ((debounce p sample now b).1.stable = b.stable →
      (debounce p sample now b).2 = none ∧
        (debounce p sample now b).1.pressStart = b.pressStart ∧
        (debounce p sample now b).1.longFlag = flagged)

/-- R97, R131, R132: a button's release event has the effect of its command: tap as `GH` or `GW`,
long-press as `SH` or `SW`, on the state with the record updated; with no event only the record
changes. -/
def Obligations.ReleaseActsAsCommand : Prop :=
  ∀ (k : Slot) (sample : Bool) (s : State),
    ((debounce s.params sample s.now (s.btn k)).2 = some .tap →
      exec (match k with | .home => .gh | .well => .gw)
        (s.setBtn k (debounce s.params sample s.now (s.btn k)).1) = .next (serveButton k sample s)) ∧
    ((debounce s.params sample s.now (s.btn k)).2 = some .longPress →
      exec (match k with | .home => .sh | .well => .sw)
        (s.setBtn k (debounce s.params sample s.now (s.btn k)).1) = .next (serveButton k sample s)) ∧
    ((debounce s.params sample s.now (s.btn k)).2 = none →
      serveButton k sample s = s.setBtn k (debounce s.params sample s.now (s.btn k)).1)

/-- R133, R134: the jog demand of every mix of levels and flags: a side asserted alone wins, and any
mix that asserts both, or neither, is neutral. -/
def Obligations.JogDemandNeutralOnConflict : Prop :=
  ∀ (inp : Levels) (s : State),
    (jogDemand inp s = .left ↔
      (inp.jogLeftBtn = true ∨ s.remoteJogLeft = true) ∧
        inp.jogRightBtn = false ∧ s.remoteJogRight = false) ∧
    (jogDemand inp s = .right ↔
      (inp.jogRightBtn = true ∨ s.remoteJogRight = true) ∧
        inp.jogLeftBtn = false ∧ s.remoteJogLeft = false) ∧
    ((inp.jogLeftBtn = true ∨ s.remoteJogLeft = true) →
      (inp.jogRightBtn = true ∨ s.remoteJogRight = true) → jogDemand inp s = .neutral)

/-! ### The Motion State Machine -/

/-- R180: the brake-release delay starts where the previous demand was neutral and the new one is
not, whatever the mode, and a flip from one side to the other starts none. -/
def Obligations.BrakeHoldStartsFromNeutralOnly : Prop :=
  ∀ (d : Demand) (s : State), d ≠ .neutral →
    (s.prevDemand = .neutral →
      (jogArbitrate d s).brakeHold = true ∧ (jogArbitrate d s).brakeStart = s.now) ∧
    (s.prevDemand ≠ .neutral →
      (jogArbitrate d s).brakeHold = s.brakeHold ∧ (jogArbitrate d s).brakeStart = s.brakeStart)

/-- R180, R181, R183: entering and staying in Jog, mode by mode, from every previous demand. From Idle
the start speed and the schedule at now (D28), from Move speed and schedule kept and the target
collapsed; inside Jog the direction only (D27). In every mode a new brake delay starts exactly where
the previous demand (D9) was neutral. -/
def Obligations.JogEntry : Prop :=
  ∀ (d : Demand) (dir : Dir) (s : State), d.dir? = some dir →
    jogArbitrate d s =
      { (match s.mode with
         | .jog => s
         | .idle =>
           { s with
             motionStartTime := s.now
             currentSpeed := BitVec.ofNat 64 s.params.vStart
             nextStepDeadline := s.now }
         | .move =>
           { s with motionStartTime := s.now, target := s.position, reversing := false }) with
        mode := .jog
        direction := dir
        prevDemand := d
        brakeHold := if s.prevDemand = .neutral then true else s.brakeHold
        brakeStart := if s.prevDemand = .neutral then s.now else s.brakeStart }

/-- R182, R183: the jog release keeps speed and direction, and touches no other mode. That the demand
is remembered is decision D9. -/
def Obligations.JogRelease : Prop :=
  ∀ s : State,
    (s.mode = .jog →
      jogArbitrate .neutral s =
        { s with mode := .idle, brakeHold := false, prevDemand := .neutral }) ∧
    (s.mode ≠ .jog → jogArbitrate .neutral s = { s with prevDemand := .neutral })

/-- R184, as phase 4 leaves it: a jog demand pre-empts a Move that was requested in the same tick;
the request shows only in `commandedTarget` and in the restarted soft-start window. -/
def Obligations.JogPreemptsMoveRequestedInSameTick : Prop :=
  ∀ (i : Instr) (s u : State) (t : Word) (d : Demand) (dir : Dir),
    requestedTarget s i = some t → t ≠ s.position → s.mode ≠ .move → d.dir? = some dir →
    exec i s = .next u →
    (jogArbitrate d u).mode = .jog ∧ (jogArbitrate d u).target = s.position ∧
      (jogArbitrate d u).commandedTarget = t ∧ (jogArbitrate d u).direction = dir ∧
      (jogArbitrate d u).reversing = false ∧ (jogArbitrate d u).motionStartTime = s.now ∧
      (jogArbitrate d u).currentSpeed =
        (if s.mode = .idle then BitVec.ofNat 64 s.params.vStart else s.currentSpeed)

/-! ### The Velocity Profile Generator -/

/-- R197, R198, R199: Idle decays toward zero; Jog ramps toward its ceiling at the rate of the
soft-start window (R196, D29), and holds its speed during the brake delay (D30); nothing else
changes. -/
def Obligations.IdleAndJogSpeed : Prop :=
  ∀ (dt : Nat) (s : State),
    (s.mode = .idle →
      profile dt s =
        { s with currentSpeed := BitVec.ofNat 64 (s.currentSpeed.toNat - s.params.decel * dt) }) ∧
    (s.mode = .jog → s.brakeHold = true →
      profile dt s =
        { s with currentSpeed :=
          if s.currentSpeed.toNat ≤ s.vJogMax.toNat then s.currentSpeed else s.vJogMax }) ∧
    (s.mode = .jog → s.brakeHold = false →
      (profile dt s).currentSpeed.toNat =
        min s.vJogMax.toNat
          (s.currentSpeed.toNat +
            (if s.now.toNat < s.motionStartTime.toNat + s.params.softStartUs then
              s.params.aSoft else s.params.aSteady) * dt) ∧
      profile dt s = { s with currentSpeed := (profile dt s).currentSpeed })

/-- R193, R200, R201, R202: a Move that is not reversing decelerates exactly where the remaining
distance less the one-step margin is within the stopping distance, here without the division; else it
accelerates. Floor and ceiling of the decelerating branch are decision D31. Nothing else changes. -/
def Obligations.MoveDecelerationTrigger : Prop :=
  ∀ (dt : Nat) (s : State), 1 ≤ s.params.decel → s.mode = .move → s.reversing = false →
    (profile dt s).currentSpeed.toNat =
      (if ((s.target.toInt - s.position.toInt).natAbs - 1) * (2 * s.params.decel * 10 ^ 12) ≤
          s.currentSpeed.toNat * s.currentSpeed.toNat then
        min s.vMoveMax.toNat
          (max s.params.vStart (s.currentSpeed.toNat - s.params.decel * dt))
       else
        min s.vMoveMax.toNat
          (s.currentSpeed.toNat +
            (if s.now.toNat < s.motionStartTime.toNat + s.params.softStartUs then
              s.params.aSoft else s.params.aSteady) * dt)) ∧
    profile dt s = { s with currentSpeed := (profile dt s).currentSpeed }

/-- R203: while reversing the generator purely decelerates; exactly where that brings the speed to
the start floor the direction flips, `reversing` clears and the schedule is reset to now, and the
emitter of that tick sends the first pulse the new way. -/
def Obligations.ReversalFlipsOnlyAtFloor : Prop :=
  ∀ (dt : Nat) (s : State), s.params.legal = true → s.mode = .move → s.reversing = true →
    s.params.vStart ≤ s.vMoveMax.toNat → s.trace = [] →
    (profile dt s).currentSpeed.toNat =
      min s.vMoveMax.toNat (max s.params.vStart (s.currentSpeed.toNat - s.params.decel * dt)) ∧
    (s.params.vStart < (profile dt s).currentSpeed.toNat →
      profile dt s = { s with currentSpeed := (profile dt s).currentSpeed }) ∧
    ((profile dt s).currentSpeed.toNat ≤ s.params.vStart →
      profile dt s =
        { s with
          currentSpeed := BitVec.ofNat 64 s.params.vStart
          direction := s.pendingDirection
          reversing := false
          nextStepDeadline := s.now } ∧
      (emit (profile dt s)).trace.head? = some s.pendingDirection)

/-- R204: the bounds at the end of the profile phase, from a speed that the entry into the mode
gives. -/
def Obligations.ProfileKeepsSpeedBounds : Prop :=
  ∀ (dt : Nat) (s : State), s.params.legal = true →
    s.params.vAcceptMin ≤ s.vJogMax.toNat → s.params.vAcceptMin ≤ s.vMoveMax.toNat →
    (s.mode ≠ .idle → s.params.vStart ≤ s.currentSpeed.toNat) →
    (profile dt s).mode = s.mode ∧
    (s.mode = .jog → s.params.vStart ≤ (profile dt s).currentSpeed.toNat ∧
      (profile dt s).currentSpeed.toNat ≤ s.vJogMax.toNat) ∧
    (s.mode = .move → s.params.vStart ≤ (profile dt s).currentSpeed.toNat ∧
      (profile dt s).currentSpeed.toNat ≤ s.vMoveMax.toNat) ∧
    (s.mode = .idle → (profile dt s).currentSpeed.toNat ≤ s.currentSpeed.toNat)

/-! ### The Step Pulse Emitter -/

/-- R216, R217, R220: when the emitter sends nothing. Idle: no change at all. A Jog whose brake-release
delay is running: no change at all. A running mode below the minimum runnable speed: no pulse, and no
debt (the deadline at now is decision D28). -/
def Obligations.EmitterSilentCases : Prop :=
  ∀ s : State,
    (s.mode = .idle → emit s = s) ∧
    (s.mode = .jog → s.brakeHold = true →
      s.now.toNat < s.brakeStart.toNat + s.params.brakeReleaseUs → emit s = s) ∧
    (s.mode ≠ .idle → (s.mode = .jog → s.brakeHold = false) →
      s.currentSpeed.toNat < s.params.vMinRun → emit s = { s with nextStepDeadline := s.now })

/-- R220: the first tick that meets the brake-release delay ends the hold, starts the soft-start
window (D30) and the schedule at now (D28), and emits in the same tick, the first pulse at once. -/
def Obligations.BrakeReleaseEmitsAtOnce : Prop :=
  ∀ s : State, s.params.legal = true → s.mode = .jog → s.brakeHold = true → s.trace = [] →
    s.params.vMinRun ≤ s.currentSpeed.toNat →
    s.brakeStart.toNat + s.params.brakeReleaseUs ≤ s.now.toNat →
    emit s = emit { s with brakeHold := false, motionStartTime := s.now, nextStepDeadline := s.now } ∧
    (emit s).brakeHold = false ∧ (emit s).motionStartTime = s.now ∧ (emit s).mode = .jog ∧
      (emit s).trace.head? = some s.direction

/-- R221, R223, R224, R229: one emitter phase sends some number of pulses, at most `N_MAX_PULSES`, all
in the current direction; the position moves by exactly that many steps that way (modulo the 64-bit
range, D33), and DIR shows the direction once a pulse has gone out (D35). -/
def Obligations.EmitMovesPositionByItsTrace : Prop :=
  ∀ s : State, s.trace = [] →
    ∃ n : Nat, n ≤ s.params.nMaxPulses ∧ (emit s).trace = List.replicate n s.direction ∧
      (emit s).position = BitVec.ofInt 64 (s.position.toInt + n * s.direction.val) ∧
      (emit s).direction = s.direction ∧
      (emit s).dirOut = (if n = 0 then s.dirOut else s.direction.bit)

/-- R226: in a Move that is not reversing the emitter stops exactly on the target. Where the phase
ends the Move, the last pulse of the trace reached the target and none before it did; where it does
not, no pulse of the trace did. Speed, target and `reversing` are left. While reversing, and in Jog,
there is no test. The positions pulses reach wrap, decision D33 (notes/assumptions/11.md). -/
def Obligations.EmitStopsExactlyOnTarget : Prop :=
  ∀ s : State, s.trace = [] →
    (s.mode = .move → s.reversing = false →
      ((emit s).mode = .idle →
        (emit s).position = s.target ∧ (emit s).trace ≠ [] ∧
        ∀ k : Nat, 1 ≤ k → k < (emit s).trace.length →
          BitVec.ofInt 64 (s.position.toInt + k * s.direction.val) ≠ s.target) ∧
      ((emit s).mode ≠ .idle →
        (emit s).mode = .move ∧
        ∀ k : Nat, 1 ≤ k → k ≤ (emit s).trace.length →
          BitVec.ofInt 64 (s.position.toInt + k * s.direction.val) ≠ s.target)) ∧
    (s.mode = .move → s.reversing = true → (emit s).mode = .move) ∧
    (s.mode = .jog → (emit s).mode = .jog) ∧
    (emit s).currentSpeed = s.currentSpeed ∧ (emit s).target = s.target ∧
    (emit s).reversing = s.reversing

/-- R221, R225, R227, R229: a pulse goes out only when it is due, the schedule being one interval
further after each; and after a phase that leaves the mode running, the schedule has advanced by one
interval per pulse from the deadline where that is ahead of now, and is snapped to now plus one
interval where it is not, which happens only after `N_MAX_PULSES` pulses. -/
def Obligations.ScheduleNeverBehind : Prop :=
  ∀ (s : State) (iv : Nat), s.params.legal = true → s.now.toNat < 2 ^ 63 → s.trace = [] →
    s.mode = .move ∨ (s.mode = .jog ∧ s.brakeHold = false) →
    s.params.vMinRun ≤ s.currentSpeed.toNat →
    iv = max s.params.minIntervalUs (10 ^ 12 / s.currentSpeed.toNat) →
    (∀ k : Nat, k < (emit s).trace.length → s.nextStepDeadline.toNat + k * iv ≤ s.now.toNat) ∧
    ((emit s).mode ≠ .idle →
      s.now.toNat < (emit s).nextStepDeadline.toNat ∧
      (s.now.toNat < s.nextStepDeadline.toNat + (emit s).trace.length * iv →
        (emit s).nextStepDeadline.toNat = s.nextStepDeadline.toNat + (emit s).trace.length * iv) ∧
      (s.nextStepDeadline.toNat + (emit s).trace.length * iv ≤ s.now.toNat →
        (emit s).trace.length = s.params.nMaxPulses ∧
          (emit s).nextStepDeadline.toNat = s.now.toNat + iv))

/-! ### Output ports -/

/-- R48: the two level outputs are the output registers through the polarities, in every state, and
after reset ENABLE is deasserted. -/
def Obligations.PinsFollowRegisters : Prop :=
  ∀ (s : State) (p : Params),
    s.outputs.dirPin = (s.dirOut ^^ s.params.dirInvert) ∧
    s.outputs.enablePin = (s.enabled ^^ s.params.enableActiveLow) ∧
    (State.resetWith p).outputs.enablePin = p.enableActiveLow

/-- R47, R49, D13: the pin activity is the trace pulse by pulse, and the status port shows the state;
the steps of a saved slot and the sampled E-stop level are shown as they are (what the port shows for
an unsaved slot, and before the first tick, is a free value and nothing is said of it). -/
def Obligations.OutputsShowState : Prop :=
  ∀ s : State,
    s.outputs.trace = s.trace ∧
    (s.trace = [] → s.outputs.pins = []) ∧
    (∀ (d : Dir) (ds : List Dir), s.trace = d :: ds →
      s.outputs.pins =
        [.dir ((if d = .right then true else false) ^^ s.params.dirInvert),
         .hold s.params.dirSetupUs, .step true, .hold s.params.pulseWidthUs, .step false] ++
          ({ s with trace := ds }).outputs.pins) ∧
    s.outputs.status.position = s.position ∧ s.outputs.status.speed = s.currentSpeed ∧
    s.outputs.status.mode =
      (match s.mode with | .idle => 0#2 | .jog => 1#2 | .move => 2#2) ∧
    (s.slotHome.saved = true → s.outputs.status.homeSteps = s.slotHome.steps) ∧
    (s.slotWell.saved = true → s.outputs.status.wellSteps = s.slotWell.steps) ∧
    (∀ e, s.estopSeen = some e → s.outputs.status.estop = e) ∧
    s.outputs.status.homeSaved = s.slotHome.saved ∧
    s.outputs.status.wellSaved = s.slotWell.saved ∧
    s.outputs.status.reversing = s.reversing ∧
    (s.outputs.status.direction = true ↔ s.direction = .right) ∧
    s.outputs.status.target = s.target ∧ s.outputs.status.commandedTarget = s.commandedTarget

/-! ### Invariants and whole-machine rules -/

/-- R50, R266: the reset state, under every legal configuration, meets the invariants. The values
beyond DART's three are decisions D7 and D10. -/
def Obligations.ResetIsSound : Prop :=
  (∀ p : Params, p.legal = true →
    Inv (State.resetWith p) ∧ Aimed (State.resetWith p) ∧ quiescent (State.resetWith p)) ∧
  Inv State.reset

/-- R50, R266, R267: the reset table under every legal configuration, field by field, and the pins
before the first tick: STEP low and no pulse, ENABLE deasserted, DIR at its reset level. The four
don't-cares of R50 are left out. DART gives mode, position, the unsaved slots and the two ceilings;
the rest are decisions D7 and D10. -/
def Obligations.ResetTable : Prop :=
  ∀ p : Params, p.legal = true →
    let s := State.resetWith p
    let up : ButtonState → Prop := fun b =>
      b.raw = false ∧ b.stable = false ∧ b.lastStable = false ∧ b.longFlag = false ∧
        b.lastTransition = 0#64 ∧ b.pressStart = 0#64
    (s.params = p ∧ s.mode = .idle ∧ s.position = 0#64 ∧
      s.slotHome.saved = false ∧ s.slotWell.saved = false ∧
      s.vJogMax.toNat = p.vJogDefault ∧ s.vMoveMax.toNat = p.vMoveDefault) ∧
    (s.reversing = false ∧ s.currentSpeed = 0#64 ∧ s.direction = .right ∧ s.target = 0#64 ∧
      s.commandedTarget = 0#64 ∧ s.nextStepDeadline = 0#64 ∧ up s.btnHome ∧ up s.btnWell ∧
      s.remoteJogLeft = false ∧ s.remoteJogRight = false ∧ s.lastTickTime = 0#64 ∧
      s.settleStart = 0#64 ∧ s.brakeStart = 0#64 ∧ s.enabled = false ∧ s.prevDemand = .neutral ∧
      s.brakeHold = false ∧ s.dirOut = true) ∧
    (s.outputs.trace = [] ∧ s.outputs.stepPin = false ∧ s.outputs.dirPin = !p.dirInvert ∧
      s.outputs.enablePin = p.enableActiveLow)

/-- R51 items 1, 3, 4, 5, 7, 8: every step keeps the invariant, from every state that has it. -/
def Obligations.StepKeepsInv : Prop :=
  ∀ s t : State, Inv s → step s = .next t → Inv t

/-- R51 item 2: in a Move the target lies ahead, or, while reversing, on the side of the pending
direction. The premise keeps the position from wrapping round its 64 bits during the tick: across a
wrap the rule is false (NOTES.md). -/
def Obligations.StepKeepsAimed : Prop :=
  ∀ s t : State, Aimed s → awayFromEnds s → step s = .next t → Aimed t

/-- R176: no change of mode but those of its table. In phase 3 a command enters Move by a request for
another place and leaves it by a stop or a request for the same place; in phase 2 a button does so only
by a tap that recalls a saved slot; phase 4 enters Jog by a demand and
leaves it by none; the profile changes no mode; the emitter only arrives; the gate only trips. -/
def Obligations.ModeChangesOnlyByTable : Prop :=
  (∀ (i : Instr) (s t : State), exec i s = .next t → t.mode ≠ s.mode →
    (s.mode ≠ .move ∧ t.mode = .move ∧
      ∃ w, requestedTarget s i = some w ∧ w ≠ s.position ∧ t.target = w) ∨
    (s.mode = .move ∧ t.mode = .idle ∧ (i = .st ∨ requestedTarget s i = some s.position))) ∧
  (∀ (k : Slot) (sample : Bool) (s : State), (serveButton k sample s).mode ≠ s.mode →
    (debounce s.params sample s.now (s.btn k)).2 = some .tap ∧ (s.slot k).saved = true ∧
    ((s.mode ≠ .move ∧ (serveButton k sample s).mode = .move ∧ (s.slot k).steps ≠ s.position ∧
        (serveButton k sample s).target = (s.slot k).steps) ∨
      (s.mode = .move ∧ (serveButton k sample s).mode = .idle ∧
        (s.slot k).steps = s.position))) ∧
  (∀ (d : Demand) (s : State), (jogArbitrate d s).mode ≠ s.mode →
    (d ≠ .neutral ∧ (jogArbitrate d s).mode = .jog) ∨
    (d = .neutral ∧ s.mode = .jog ∧ (jogArbitrate d s).mode = .idle)) ∧
  (∀ (dt : Nat) (s : State), (profile dt s).mode = s.mode ∧
    ((profile dt s).reversing ≠ s.reversing →
      s.mode = .move ∧ s.reversing = true ∧
        (profile dt s).currentSpeed.toNat ≤ s.params.vStart)) ∧
  (∀ s : State, (emit s).mode ≠ s.mode →
    s.mode = .move ∧ s.reversing = false ∧ (emit s).mode = .idle ∧ (emit s).position = s.target) ∧
  (∀ (estop : Bool) (s : State), (safetyGate estop s).1.mode ≠ s.mode →
    estop = true ∧ (safetyGate estop s).1.mode = .idle)

/-- R25, R65: the position changes by the pulses of the trace and by nothing else, whatever the
event; all pulses of a tick go one way and are at most `N_MAX_PULSES`. A reset puts it back to 0. -/
def Obligations.PositionCountsPulses : Prop :=
  ∀ s t : State, step s = .next t →
    (∀ now inp rest, NextIsTick now inp rest s →
      t.position = BitVec.ofInt 64 (s.position.toInt + netSteps t.trace) ∧
      t.trace.length ≤ s.params.nMaxPulses ∧ (∃ d, ∀ e ∈ t.trace, e = d)) ∧
    (∀ bytes rest, s.script = .rx bytes :: rest → t.position = s.position ∧ t.trace = s.trace) ∧
    (∀ rest, s.script = .reset :: rest → t.position = 0#64 ∧ t.trace = [])

/-- R186, DART's exact arrival: a tick that starts in Move and ends in Idle ends with
`position = target`, whichever way it left Move. -/
def Obligations.MoveEndsOnTarget : Prop :=
  ∀ (s t : State) (now : Word) (inp : Levels) (rest : List Event), NextIsTick now inp rest s →
    s.mode = .move → step s = .next t → t.mode = .idle → t.position = t.target

/-- R34, R38, R166, R169: no event writes the parameters; no tick and no byte clears a saved slot, and a
slot that is saved after is the one saved before or holds the position of the tick's start, before its
pulses, which is the resolution of conflict C11. Nothing is said
of the steps of an unsaved slot (93_implementation_defined.md U1). -/
def Obligations.SavedSlotsPersist : Prop :=
  ∀ s t : State, step s = .next t →
    t.params = s.params ∧
    (s.script.head? ≠ some .reset → ∀ k : Slot,
      ((s.slot k).saved = true → (t.slot k).saved = true) ∧
      ((t.slot k).saved = true →
        ((s.slot k).saved = true ∧ t.slot k = s.slot k) ∨
          t.slot k = { steps := s.position, saved := true }))

/-- R121: a quiescent block with both position buttons at rest stays quiescent and still through a
tick with no input level asserted. The rest of the buttons is added by the model: with a press
pending the rule is false (NOTES.md). -/
def Obligations.QuiescentStaysQuiescent : Prop :=
  ∀ (s : State) (now : Word) (rest : List Event), NextIsTick now noInputs rest s →
    TickDefined now s → quiescent s → buttonsUp s = true →
    ∃ t, step s = .next t ∧ quiescent t ∧ buttonsUp t = true ∧ t.position = s.position ∧
      t.trace = [] ∧ t.slotHome = s.slotHome ∧ t.slotWell = s.slotWell ∧
      t.vJogMax = s.vJogMax ∧ t.vMoveMax = s.vMoveMax

/-- R146, R181, DART's jog scenario, whole tick: in a running left jog, `JR` flips the direction in
one tick, with no neutral gap and no new brake delay (D9, D27). The two bytes of `JR` are G1's, PRESUMED
(notes/assumptions/14.md). -/
def Obligations.JogFlipTakesOneTick : Prop :=
  ∀ (s : State) (now : Word) (rest : List Event), NextIsTick now noInputs rest s →
    TickDefined now s → GateOpens now noInputs s → buttonsUp s = true →
    s.mode = .jog → s.prevDemand = .left → s.brakeHold = false →
    s.lineQueue = [[0x4A#8, 0x52#8]] →
    ∃ t, step s = .next t ∧ t.mode = .jog ∧ t.direction = .right ∧ t.prevDemand = .right ∧
      t.brakeHold = false ∧ t.remoteJogLeft = false ∧ t.remoteJogRight = true ∧
      t.motionStartTime = s.motionStartTime
end

