-- ==== Sys2Proof/Laws/Decode.lean ====
section
/-! SUPPORT. The decoder's numerals against the encoder's, and what a line that decodes is
(spec: 30_encoding.md R81 to R95). -/

namespace Sys2Proof

theorem digitByte_toNat (n : Nat) : (digitByte n).toNat = 0x30 + n % 10 := by
  simp [digitByte]; omega

theorem isDigit_digitByte (n : Nat) : isDigit (digitByte n) = true := by
  simp [isDigit, digitByte_toNat]; omega

theorem isDigit_ne {b c : Byte} (h : isDigit b = true) (hc : isDigit c = false) : b ≠ c := by
  intro e; simp [e, hc] at h

theorem natOfDigits_append_one (ds : List Byte) (d : Byte) :
    natOfDigits (ds ++ [d]) = natOfDigits ds * 10 + (d.toNat - 0x30) := by
  simp [natOfDigits]

/-- The digits of a numeral, split at any place, are the high part scaled and the low part (R86). -/
theorem natOfDigits_append (ds es : List Byte) :
    natOfDigits (ds ++ es) = natOfDigits ds * 10 ^ es.length + natOfDigits es := by
  induction es using List.reverseRecOn with
  | nil => simp [natOfDigits]
  | append_singleton es e ih =>
    rw [← List.append_assoc, natOfDigits_append_one, natOfDigits_append_one, ih]
    simp [pow_succ]; ring

theorem natOfDigits_zeros (k : Nat) : natOfDigits (List.replicate k byteZero) = 0 := by
  induction k with
  | zero => rfl
  | succ k ih => rw [List.replicate_succ', natOfDigits_append_one, ih]; rfl

/-- `k` digits reach the numbers below `10 ^ k` (R86). -/
theorem natOfDigits_lt {ds : List Byte} (h : ds.all isDigit = true) :
    natOfDigits ds < 10 ^ ds.length := by
  induction ds using List.reverseRecOn with
  | nil => simp [natOfDigits]
  | append_singleton ds d ih =>
    simp only [List.all_append, List.all_cons, List.all_nil, Bool.and_true, Bool.and_eq_true] at h
    have hd := h.2
    simp only [isDigit, Bool.and_eq_true, decide_eq_true_eq] at hd
    have := ih h.1
    rw [natOfDigits_append_one]
    simp [pow_succ]; omega

/-- Enough digits spell the number. -/
theorem natOfDigits_digitsText (fuel n : Nat) (h : n < 10 ^ fuel) :
    natOfDigits (digitsText fuel n) = n := by
  induction fuel generalizing n with
  | zero => simp at h; subst h; rfl
  | succ k ih =>
    unfold digitsText
    split
    · simp [natOfDigits, digitByte_toNat]; omega
    · rw [natOfDigits_append_one, ih _ (by rw [pow_succ] at h; omega), digitByte_toNat]; omega

theorem digitsText_digits (fuel n : Nat) : (digitsText fuel n).all isDigit = true := by
  induction fuel generalizing n with
  | zero => rfl
  | succ k ih =>
    unfold digitsText
    split
    · simp [isDigit_digitByte]
    · rw [List.all_append, ih]; simp [isDigit_digitByte]

/-- No leading zero is written. -/
theorem digitsText_length_le (fuel n k : Nat) (h : n < 10 ^ k) (hk : 1 ≤ k) :
    (digitsText fuel n).length ≤ k := by
  induction fuel generalizing n k with
  | zero => simp [digitsText]
  | succ f ih =>
    unfold digitsText
    split
    · simpa
    · rename_i hn
      obtain ⟨k, rfl⟩ : ∃ j, k = j + 1 := ⟨k - 1, by omega⟩
      have hk1 : 1 ≤ k := by
        rcases k with _ | k
        · simp at h; omega
        · omega
      rw [pow_succ] at h
      have := ih (n / 10) k (by omega) hk1
      simp; omega

/-- The encoder's digits spell the number (R86). -/
theorem natText_value (n : Nat) : natOfDigits (natText n) = n := by
  apply natOfDigits_digitsText
  calc n < 2 ^ (n.log2 + 1) := Nat.lt_log2_self
    _ ≤ 10 ^ (n.log2 + 1) := Nat.pow_le_pow_left (by omega) _

theorem natText_digits (n : Nat) : (natText n).all isDigit = true := digitsText_digits _ _

theorem natText_ne_nil (n : Nat) : natText n ≠ [] := by
  unfold natText digitsText; split <;> simp

theorem natText_length_le {n k : Nat} (h : n < 10 ^ k) (hk : 1 ≤ k) : (natText n).length ≤ k :=
  digitsText_length_le _ _ _ h hk

theorem numeral_natText (n : Nat) : numeral (natText n) = some n := by
  simp [numeral, natText_digits, natText_value, natText_ne_nil]

/-- The decoder reads the encoder's signed-int numeral (R86). -/
theorem intValue_intText (v : Int) : intValue (intText v) = some v := by
  unfold intText
  split
  · rename_i h
    simp only [intValue, numeral_natText]
    simp [byteMinus, bytePlus, abs_of_neg h]
  · rename_i h
    cases ht : natText v.natAbs with
    | nil => exact absurd ht (natText_ne_nil _)
    | cons b ds =>
      have hb : isDigit b = true := by
        have := natText_digits v.natAbs; rw [ht] at this; simp at this; exact this.1
      rw [intValue, if_neg (isDigit_ne hb rfl), if_neg (isDigit_ne hb rfl), ← ht, numeral_natText]
      simp; omega

/-- What `trimZeros` takes off is zeros. -/
theorem trimZeros_spec (ds : List Byte) :
    ds = trimZeros ds ++ List.replicate (ds.length - (trimZeros ds).length) byteZero := by
  have h := List.takeWhile_append_dropWhile (p := fun b => decide (b = byteZero)) (l := ds.reverse)
  have h2 : ds = (ds.reverse.dropWhile (fun b => decide (b = byteZero))).reverse ++ (ds.reverse.takeWhile (fun b => decide (b = byteZero))).reverse := by
    rw [← List.reverse_append, h, List.reverse_reverse]
  have h3 : (ds.reverse.takeWhile (fun b => decide (b = byteZero))).reverse = List.replicate (ds.length - (trimZeros ds).length) byteZero := by
    rw [List.eq_replicate_iff]
    constructor
    · have := congrArg List.length h2
      simp only [List.length_append] at this
      unfold trimZeros; omega
    · intro b hb
      have := List.mem_takeWhile_imp (List.mem_reverse.1 hb)
      simpa using this
  rw [h3] at h2; exact h2

theorem natOfDigits_sixDigits (f : Nat) (h : f < 1000000) : natOfDigits (sixDigits f) = f := by
  simp [sixDigits, natOfDigits, digitByte_toNat]; omega

/-- Dropping the zeros at the right end of a fraction changes no value (R88). -/
theorem fraction_trimZeros (f : Nat) (h : f < 1000000) :
    fraction (trimZeros (sixDigits f)) = f := by
  unfold fraction
  have e := trimZeros_spec (sixDigits f)
  have hl : (sixDigits f).length = 6 := rfl
  have hle : (trimZeros (sixDigits f)).length ≤ 6 := by
    have := congrArg List.length e; simp only [List.length_append] at this; omega
  rw [hl] at e
  have : (trimZeros (sixDigits f) ++ List.replicate 6 byteZero).take 6 = sixDigits f := by
    conv_rhs => rw [e]
    rw [List.take_append, List.take_of_length_le hle]
    rw [List.take_replicate]; simp
  rw [this, natOfDigits_sixDigits f h]

theorem trimZeros_digits {ds : List Byte} (h : ds.all isDigit = true) :
   (trimZeros ds).all isDigit = true := by
  rw [trimZeros_spec ds, List.all_append, Bool.and_eq_true] at h; exact h.1

theorem sixDigits_digits (f : Nat) : (sixDigits f).all isDigit = true := by
  simp [sixDigits, isDigit_digitByte]

theorem digits_no_point {ds : List Byte} (h : ds.all isDigit = true) : ∀ b ∈ ds, decide (b ≠ bytePoint) = true := by
  intro b hb
  rw [List.all_eq_true] at h
  simpa using isDigit_ne (h b hb) (c := bytePoint) rfl

/-- A decimal numeral is cut at its point (R88). -/
theorem split_at_point {is fs : List Byte} (h : is.all isDigit = true) :
    (is ++ bytePoint :: fs).dropWhile (· ≠ bytePoint) = bytePoint :: fs ∧
    (is ++ bytePoint :: fs).takeWhile (· ≠ bytePoint) = is := by
  have := digits_no_point h
  constructor
  · rw [List.dropWhile_append_of_pos this]; simp
  · rw [List.takeWhile_append_of_pos this]; simp

theorem trimZeros_ne_nil (f : Nat) (h : f < 1000000) (h0 : f ≠ 0) : trimZeros (sixDigits f) ≠ [] := by
  intro e
  have := fraction_trimZeros f h
  rw [e] at this
  simp [fraction] at this
  have e2 : natOfDigits [byteZero,byteZero,byteZero,byteZero,byteZero,byteZero] = 0 := by decide
  exact h0 (this.symm.trans e2)

/-- The decoder reads the encoder's decimal numeral (R88). -/
theorem uspsValue_uspsText (v : Nat) : uspsValue (uspsText v) = some v := by
  unfold uspsText
  split
  · rename_i h
    have : (natText (v / 1000000)).dropWhile (· ≠ bytePoint) = [] := by
      rw [List.dropWhile_eq_nil_iff]; exact digits_no_point (natText_digits _)
    simp only [uspsValue, this, numeral_natText]
    simp; omega
  · rename_i h
    have hi : (if v / 1000000 = 0 then ([] : List Byte) else natText (v / 1000000)).all isDigit = true := by
      split
      · rfl
      · exact natText_digits _
    have hv : natOfDigits (if v / 1000000 = 0 then ([] : List Byte) else natText (v / 1000000)) = v / 1000000 := by
      split
      · rename_i h; rw [h]; rfl
      · exact natText_value _
    obtain ⟨e1, e2⟩ := split_at_point (fs := trimZeros (sixDigits (v % 1000000))) hi
    have hlt : v % 1000000 < 1000000 := Nat.mod_lt _ (by omega)
    simp only [uspsValue, e1, e2, hi, hv, trimZeros_digits (sixDigits_digits _), fraction_trimZeros _ hlt]
    rw [if_pos ⟨trivial, trivial, .inr (trimZeros_ne_nil _ hlt h)⟩]
    congr 1; omega

/-- A fraction that is a multiple of `10 ^ (6 - k)` needs `k` digits (R88). -/
theorem trimZeros_length_le (f k : Nat) (h1 : 1 ≤ k) (h6 : k ≤ 6) (h : f % 10 ^ (6 - k) = 0) :
    (trimZeros (sixDigits f)).length ≤ k := by
  have z : ∀ n, n % 10 = 0 → digitByte n = byteZero := by
    intro n hn; apply BitVec.eq_of_toNat_eq; rw [digitByte_toNat, hn]; rfl
  have dl : ∀ (l : List Byte), (l.dropWhile (· = byteZero)).length ≤ l.length := fun l => (List.dropWhile_sublist _).length_le
  simp only [trimZeros, sixDigits, List.length_reverse, List.reverse_cons, List.reverse_nil, List.nil_append, List.cons_append]
  have hk : k = 1 ∨ k = 2 ∨ k = 3 ∨ k = 4 ∨ k = 5 ∨ k = 6 := by omega
  rcases hk with rfl | rfl | rfl | rfl | rfl | rfl <;> norm_num at h
  · rw [z f (by omega), z (f / 10) (by omega), z (f / 100) (by omega), z (f / 1000) (by omega), z (f / 10000) (by omega)]
    simp only [List.dropWhile_cons, decide_true, if_true]; 
    split <;> simp
  · rw [z f (by omega), z (f / 10) (by omega), z (f / 100) (by omega), z (f / 1000) (by omega)]
    simp only [List.dropWhile_cons (x := byteZero), decide_true, if_true]
    exact dl _
  · rw [z f (by omega), z (f / 10) (by omega), z (f / 100) (by omega)]
    simp only [List.dropWhile_cons (x := byteZero), decide_true, if_true]
    exact dl _
  · rw [z f (by omega), z (f / 10) (by omega)]
    simp only [List.dropWhile_cons (x := byteZero), decide_true, if_true]
    exact dl _
  · rw [z f (by omega)]
    simp only [List.dropWhile_cons (x := byteZero), decide_true, if_true]
    exact dl _
  · exact dl _

/-- A number that fits is spelled within the room it fits (R86). -/
theorem intText_length_le {m : Nat} {v : Int} (h : fitsInt m v = true) : (intText v).length ≤ m := by
  unfold fitsInt at h
  unfold intText
  split at h <;> simp only [Bool.and_eq_true, decide_eq_true_eq] at h
  · rename_i hv; simp only [hv, if_true, List.length_cons]
    have := natText_length_le h.2 (by omega); omega
  · rename_i hv; simp only [hv, if_false]
    exact natText_length_le h.2 h.1

/-- A speed that fits is spelled within the room it fits (R88). -/
theorem uspsText_length_le {m v : Nat} (h : fitsDec m v = true) : (uspsText v).length ≤ m := by
  obtain ⟨k, hk, hf⟩ := List.any_eq_true.1 h
  have hk6 : k ≤ 6 := by simp at hk; omega
  unfold fitsDecWith at hf
  unfold uspsText
  split at hf <;> simp only [Bool.and_eq_true, decide_eq_true_eq] at hf
  · have hz : v % 1000000 = 0 := hf.1.2
    simp only [hz, if_true]
    exact natText_length_le hf.2 hf.1.1
  · have hle : 10 ^ (m - 1 - k) ≤ 10 ^ m := Nat.pow_le_pow_right (by omega) (by omega)
    split
    · exact natText_length_le (by have := hf.2; norm_num at this; omega) (by omega)
    · have hm : (v % 1000000) % 10 ^ (6 - k) = 0 := by
        have hd : 10 ^ (6 - k) ∣ 1000000 := by
          have : (1000000 : Nat) = 10 ^ 6 := by norm_num
          rw [this]; exact Nat.pow_dvd_pow 10 (by omega)
        rw [Nat.mod_mod_of_dvd _ hd]; exact hf.1.2
      have h1 := trimZeros_length_le (v % 1000000) k (by omega) hk6 hm
      have h2 : (if v / 1000000 = 0 then ([] : List Byte) else natText (v / 1000000)).length ≤ m - 1 - k := by
        split
        · simp
        · have h3 := hf.2
          norm_num at h3
          apply natText_length_le h3
          by_contra hc
          have : m - 1 - k = 0 := by omega
          rw [this] at h3; simp at h3; omega
      simp only [List.length_append, List.length_cons]
      omega

/-- A well-formed command is spelled within `LINE_MAX` (R82). -/
theorem encode_length_le {m : Nat} {i : Instr} (h : i.wellFormed m = true) : (encode i).length ≤ m := by
  cases i <;> simp only [Instr.wellFormed, Bool.and_eq_true, decide_eq_true_eq] at h <;>
    simp only [encode, opcodeBytes, Instr.argText, List.length_append, List.length_cons, List.length_nil]
  all_goals first
    | omega
    | (have := intText_length_le h.2; omega)
    | (have := uspsText_length_le h.2; omega)

/-- Everything a line that decodes is: two opcode bytes and an argument, within the limit (R82, R95). -/
theorem decodeLine_some {m : Nat} {b : Line} {i : Instr} (h : decodeLine m b = some i) :
    ∃ b0 b1 arg, b = b0 :: b1 :: arg ∧ arg.length + 2 ≤ m ∧ decodeOp (b0.toNat * 256 + b1.toNat) arg = some i := by
  unfold decodeLine at h
  split at h
  · cases h
  · rename_i hl
    split at h
    · rename_i b0 b1 arg; exact ⟨b0, b1, arg, rfl, by simp only [List.length_cons] at hl; omega, h⟩
    · cases h

/-- Everything a numeral is (R86). -/
theorem numeral_some {ds : List Byte} {n : Nat} (h : numeral ds = some n) :
   ds ≠ [] ∧ ds.all isDigit = true ∧ n = natOfDigits ds := by
  unfold numeral at h; split at h
  · rename_i hc; simp at h; exact ⟨hc.1, hc.2, h.symm⟩
  · simp at h

theorem numeral_bound {ds : List Byte} {n : Nat} (h : numeral ds = some n) :
   1 ≤ ds.length ∧ n < 10 ^ ds.length := by
  obtain ⟨h1, h2, rfl⟩ := numeral_some h
  exact ⟨List.length_pos_iff.2 h1, natOfDigits_lt h2⟩

theorem ten_pow_mono {a b : Nat} (h : a ≤ b) : 10 ^ a ≤ 10 ^ b := Nat.pow_le_pow_right (by omega) h

theorem fitsInt_of_neg {m : Nat} {v : Int} (_hv : v ≤ 0) (hm : 2 ≤ m) (hb : v.natAbs < 10 ^ (m - 1)) : fitsInt m v = true := by
  have := ten_pow_mono (show m - 1 ≤ m by omega)
  unfold fitsInt
  split <;> rw [Bool.and_eq_true, decide_eq_true_eq, decide_eq_true_eq] <;> omega

theorem fitsInt_of_nonneg {m n : Nat} (hm : 1 ≤ m) (hb : n < 10 ^ m) : fitsInt m (n : Int) = true := by
  unfold fitsInt
  split <;> rw [Bool.and_eq_true, decide_eq_true_eq, decide_eq_true_eq] <;> omega

/-- A signed-int numeral reaches only the numbers that fit its length (R86). -/
theorem intValue_fits {arg : List Byte} {v : Int} {m : Nat} (h : intValue arg = some v) (hm : arg.length ≤ m) :
    fitsInt m v = true := by
  cases arg with
  | nil => simp [intValue] at h
  | cons b ds =>
    simp only [List.length_cons] at hm
    simp only [intValue] at h
    split at h
    · simp only [Option.map_eq_some_iff] at h
      obtain ⟨n, hn, rfl⟩ := h
      obtain ⟨h1, h2⟩ := numeral_bound hn
      have := ten_pow_mono (show ds.length ≤ m by omega)
      exact fitsInt_of_nonneg (by omega) (by omega)
    · split at h
      · simp only [Option.map_eq_some_iff] at h
        obtain ⟨n, hn, rfl⟩ := h
        obtain ⟨h1, h2⟩ := numeral_bound hn
        try simp only [List.length_cons] at h1 h2 hm
        have := ten_pow_mono (show ds.length ≤ m - 1 by omega)
        exact fitsInt_of_neg (by omega) (by omega) (by omega)
      · simp only [Option.map_eq_some_iff] at h
        obtain ⟨n, hn, rfl⟩ := h
        obtain ⟨h1, h2⟩ := numeral_bound hn
        try simp only [List.length_cons] at h1 h2 hm
        have := ten_pow_mono (show ds.length + 1 ≤ m by omega)
        exact fitsInt_of_nonneg (by omega) (by omega)

/-- `j` digits after the point give a multiple of `10 ^ (6 - j)` millionths (R88). -/
theorem fraction_spec (fs : List Byte) (h : fs.all isDigit = true) :
    fraction fs < 1000000 ∧ fraction fs % 10 ^ (6 - min 6 fs.length) = 0 := by
  have e : (fs ++ List.replicate 6 byteZero).take 6 = fs.take 6 ++ List.replicate (6 - min 6 fs.length) byteZero := by
    rw [List.take_append, List.take_replicate]; congr 2; omega
  unfold fraction
  constructor
  · have hd : ((fs ++ List.replicate 6 byteZero).take 6).all isDigit = true := by
      rw [e, List.all_append, Bool.and_eq_true]
      constructor
      · rw [List.all_eq_true] at *; intro b hb; exact h b (List.mem_of_mem_take hb)
      · rw [List.all_eq_true]; intro b hb; rw [(List.mem_replicate.1 hb).2]; rfl
    have := natOfDigits_lt hd
    have hl : ((fs ++ List.replicate 6 byteZero).take 6).length = 6 := by simp
    rw [hl] at this; simpa using this
  · rw [e, natOfDigits_append, natOfDigits_zeros]; simp

/-- A decimal numeral reaches only the speeds that fit its length (R88). -/
theorem uspsValue_fits {arg : List Byte} {v m : Nat} (h : uspsValue arg = some v) (hm : arg.length ≤ m) :
    fitsDec m v = true := by
  unfold uspsValue at h
  have hsplit := List.takeWhile_append_dropWhile (p := fun b => decide (b ≠ bytePoint)) (l := arg)
  split at h
  · simp only [Option.map_eq_some_iff] at h
    obtain ⟨n, hn, rfl⟩ := h
    obtain ⟨h1, h2⟩ := numeral_bound hn
    have := ten_pow_mono hm
    rw [fitsDec, List.any_eq_true]
    refine ⟨0, by simp, ?_⟩
    simp [fitsDecWith]; omega
  · rename_i c fs hd
    rw [hd] at hsplit
    have hlen := congrArg List.length hsplit
    simp only [List.length_append, List.length_cons] at hlen
    dsimp only at h
    split at h
    · rename_i hc
      obtain ⟨hi, hf, hne⟩ := hc
      have h := Option.some.inj h
      obtain ⟨f1, f2⟩ := fraction_spec fs hf
      have hi' := natOfDigits_lt hi
      rw [fitsDec, List.any_eq_true]
      have hq : v / 1000000 = natOfDigits (arg.takeWhile (fun b => decide (b ≠ bytePoint))) := by
        subst h; rw [Nat.mul_comm, Nat.mul_add_div (by omega), Nat.div_eq_of_lt f1]; rfl
      have hmem : ∀ k, k ≤ 6 → k ∈ [0, 1, 2, 3, 4, 5, 6] := by intro k hk; simp; omega
      refine ⟨min 6 fs.length, hmem _ (by omega), ?_⟩
      unfold fitsDecWith
      split
      · rename_i hz
        have : fs.length = 0 := by omega
        rw [hz] at f2
        have := ten_pow_mono (show (arg.takeWhile (fun b => decide (b ≠ bytePoint))).length ≤ m by omega)
        simp only [Bool.and_eq_true, decide_eq_true_eq]
        refine ⟨⟨by omega, ?_⟩, ?_⟩
        · show v % 1000000 = 0; have f2 : fraction fs % 1000000 = 0 := f2; omega
        · show v / 1000000 < _; rw [hq]; exact lt_of_lt_of_le hi' this
      · have := ten_pow_mono (show (arg.takeWhile (fun b => decide (b ≠ bytePoint))).length ≤ m - 1 - min 6 fs.length by omega)
        have hd : 10 ^ (6 - min 6 fs.length) ∣ 1000000 := by
          have : (1000000 : Nat) = 10 ^ 6 := by norm_num
          rw [this]; exact Nat.pow_dvd_pow 10 (by omega)
        have h10 : v % 10 ^ (6 - min 6 fs.length) = 0 := by
          rw [← h]
          exact Nat.mod_eq_zero_of_dvd (Nat.dvd_add (Dvd.dvd.mul_left hd _) (Nat.dvd_of_mod_eq_zero f2))
        simp only [Bool.and_eq_true, decide_eq_true_eq]
        refine ⟨⟨by omega, h10⟩, ?_⟩
        show v / 1000000 < _; rw [hq]; exact lt_of_lt_of_le hi' this
    · simp at h

/-- Everything format `BARE` accepts (R84). -/
theorem bare_some {i j : Instr} {arg : List Byte} (h : bare i arg = some j) : arg = [] ∧ i = j := by
  unfold bare at h; split at h
  · exact ⟨‹_›, by simpa using h⟩
  · cases h

/-- Everything a decoded opcode and argument are, command by command (R90, R95). -/
theorem decodeOp_cases {op : Nat} {arg : List Byte} {i : Instr} (h : decodeOp op arg = some i) :
    op = i.opcode16 ∧
    (match i with
     | .gt v | .mr v => intValue arg = some v
     | .vj v | .vm v => uspsValue arg = some v
     | .jl | .jr | .js | .st | .gh | .gw | .sh | .sw => arg = []) := by
  unfold decodeOp at h
  by_cases ho : op = 0x4A4C
  · rw [if_pos ho] at h
    obtain ⟨ha, rfl⟩ := bare_some h; exact ⟨ho, ha⟩
  rw [if_neg ho] at h; clear ho
  by_cases ho : op = 0x4A52
  · rw [if_pos ho] at h
    obtain ⟨ha, rfl⟩ := bare_some h; exact ⟨ho, ha⟩
  rw [if_neg ho] at h; clear ho
  by_cases ho : op = 0x4A53
  · rw [if_pos ho] at h
    obtain ⟨ha, rfl⟩ := bare_some h; exact ⟨ho, ha⟩
  rw [if_neg ho] at h; clear ho
  by_cases ho : op = 0x5354
  · rw [if_pos ho] at h
    obtain ⟨ha, rfl⟩ := bare_some h; exact ⟨ho, ha⟩
  rw [if_neg ho] at h; clear ho
  by_cases ho : op = 0x4748
  · rw [if_pos ho] at h
    obtain ⟨ha, rfl⟩ := bare_some h; exact ⟨ho, ha⟩
  rw [if_neg ho] at h; clear ho
  by_cases ho : op = 0x4757
  · rw [if_pos ho] at h
    obtain ⟨ha, rfl⟩ := bare_some h; exact ⟨ho, ha⟩
  rw [if_neg ho] at h; clear ho
  by_cases ho : op = 0x5348
  · rw [if_pos ho] at h
    obtain ⟨ha, rfl⟩ := bare_some h; exact ⟨ho, ha⟩
  rw [if_neg ho] at h; clear ho
  by_cases ho : op = 0x5357
  · rw [if_pos ho] at h
    obtain ⟨ha, rfl⟩ := bare_some h; exact ⟨ho, ha⟩
  rw [if_neg ho] at h; clear ho
  by_cases ho : op = 0x4754
  · rw [if_pos ho] at h
    obtain ⟨v, hv, rfl⟩ := Option.map_eq_some_iff.1 h; exact ⟨ho, hv⟩
  rw [if_neg ho] at h; clear ho
  by_cases ho : op = 0x4D52
  · rw [if_pos ho] at h
    obtain ⟨v, hv, rfl⟩ := Option.map_eq_some_iff.1 h; exact ⟨ho, hv⟩
  rw [if_neg ho] at h; clear ho
  by_cases ho : op = 0x564A
  · rw [if_pos ho] at h
    obtain ⟨v, hv, rfl⟩ := Option.map_eq_some_iff.1 h; exact ⟨ho, hv⟩
  rw [if_neg ho] at h; clear ho
  by_cases ho : op = 0x564D
  · rw [if_pos ho] at h
    obtain ⟨v, hv, rfl⟩ := Option.map_eq_some_iff.1 h; exact ⟨ho, hv⟩
  rw [if_neg ho] at h; clear ho
  cases h

/-- A signed-int numeral has no blank, control or high byte (R85, R93). -/
theorem printable_of_int {arg : List Byte} {v : Int} (h : intValue arg = some v) : ∀ x ∈ arg, 0x20 < x.toNat ∧ x.toNat < 0x7F := by
  have dig : ∀ {n : Nat} {ds : List Byte}, numeral ds = some n → ∀ x ∈ ds, 0x20 < x.toNat ∧ x.toNat < 0x7F := by
    intro n ds hn x hx
    have := (List.all_eq_true.1 (numeral_some hn).2.1) x hx
    simp [isDigit] at this; omega
  cases arg with
  | nil => simp
  | cons b ds =>
    simp only [intValue] at h
    split at h
    · rename_i hb
      simp only [Option.map_eq_some_iff] at h; obtain ⟨n, hn, -⟩ := h
      intro x hx; rcases List.mem_cons.1 hx with rfl | hx
      · rw [hb]; decide
      · exact dig hn x hx
    · split at h
      · rename_i hb
        simp only [Option.map_eq_some_iff] at h; obtain ⟨n, hn, -⟩ := h
        intro x hx; rcases List.mem_cons.1 hx with rfl | hx
        · rw [hb]; decide
        · exact dig hn x hx
      · simp only [Option.map_eq_some_iff] at h; obtain ⟨n, hn, -⟩ := h
        exact dig hn

/-- A decimal numeral has no blank, control or high byte (R85, R93). -/
theorem printable_of_usps {arg : List Byte} {v : Nat} (h : uspsValue arg = some v) : ∀ x ∈ arg, 0x20 < x.toNat ∧ x.toNat < 0x7F := by
  have dig : ∀ {ds : List Byte}, ds.all isDigit = true → ∀ x ∈ ds, 0x20 < x.toNat ∧ x.toNat < 0x7F := by
    intro ds hn x hx
    have := (List.all_eq_true.1 hn) x hx
    simp [isDigit] at this; omega
  unfold uspsValue at h
  have hsplit := List.takeWhile_append_dropWhile (p := fun b => decide (b ≠ bytePoint)) (l := arg)
  split at h
  · simp only [Option.map_eq_some_iff] at h; obtain ⟨n, hn, -⟩ := h
    exact dig (numeral_some hn).2.1
  · rename_i c fs hd
    dsimp only at h
    split at h
    · rename_i hc
      rw [hd] at hsplit
      have hcp : c = bytePoint := by
        have := List.head?_dropWhile_not (fun b => decide (b ≠ bytePoint)) arg
        rw [hd] at this; simpa using this
      intro x hx
      rw [← hsplit, List.mem_append, List.mem_cons] at hx
      rcases hx with hx | rfl | hx
      · exact dig hc.1 x hx
      · rw [hcp]; decide
      · exact dig hc.2.1 x hx
    · simp at h

namespace Machine

/-- The statements' digit test is the decoder's (R86). -/
theorem digitsOnly_iff (ds : List Byte) : digitsOnly ds ↔ ds.all isDigit = true := by
  simp [isDigit]

/-- The decoder's number is the one the digits spell (R86). -/
theorem natOfDigits_eq_spelled (ds : List Byte) : natOfDigits ds = spelled ds := by
  induction ds using List.reverseRecOn with
  | nil => rfl
  | append_singleton ds d ih =>
    rw [natOfDigits_append_one, ih]
    simp [spelled, Nat.ofDigits_cons]; ring

/-- A numeral's value, in the statements' terms (R86). -/
theorem numeral_eq_some_iff (ds : List Byte) (n : Nat) :
    numeral ds = some n ↔ ds ≠ [] ∧ digitsOnly ds ∧ n = spelled ds := by
  rw [digitsOnly_iff, ← natOfDigits_eq_spelled]
  constructor
  · exact numeral_some
  · rintro ⟨h1, h2, rfl⟩; simp [numeral, h1, h2]

/-- `intValue` reads exactly the signed-int numerals, each at its value (R86). -/
theorem intValue_eq_some_iff (arg : List Byte) (v : Int) : intValue arg = some v ↔ SpellsInt arg v := by
  have sign : ∀ ds c, digitsOnly (c :: ds) → c ≠ bytePlus ∧ c ≠ byteMinus := by
    intro ds c h
    have := (List.all_eq_true.1 ((digitsOnly_iff _).1 h)) c (by simp)
    exact ⟨isDigit_ne this rfl, isDigit_ne this rfl⟩
  cases arg with
  | nil =>
    refine ⟨nofun, ?_⟩
    rintro ⟨ds, hne, -, ⟨rfl, -⟩ | ⟨h, -⟩ | ⟨h, -⟩⟩
    · exact absurd rfl hne
    · cases h
    · cases h
  | cons b ds =>
    simp only [intValue]
    split
    · rename_i hb
      simp only [Option.map_eq_some_iff, numeral_eq_some_iff]
      constructor
      · rintro ⟨n, ⟨h1, h2, rfl⟩, rfl⟩; exact ⟨ds, h1, h2, .inr (.inl ⟨by rw [hb]; rfl, rfl⟩)⟩
      · rintro ⟨es, h1, h2, ⟨rfl, -⟩ | ⟨h, rfl⟩ | ⟨h, -⟩⟩
        · exact absurd hb (sign _ _ h2).1
        · cases h; exact ⟨_, ⟨h1, h2, rfl⟩, rfl⟩
        · cases h; exact absurd hb (by decide)
    · rename_i hp
      split
      · rename_i hb
        simp only [Option.map_eq_some_iff, numeral_eq_some_iff]
        constructor
        · rintro ⟨n, ⟨h1, h2, rfl⟩, rfl⟩; exact ⟨ds, h1, h2, .inr (.inr ⟨by rw [hb]; rfl, rfl⟩)⟩
        · rintro ⟨es, h1, h2, ⟨rfl, -⟩ | ⟨h, -⟩ | ⟨h, rfl⟩⟩
          · exact absurd hb (sign _ _ h2).2
          · cases h; exact absurd hb (by decide)
          · cases h; exact ⟨_, ⟨h1, h2, rfl⟩, rfl⟩
      · rename_i hm
        simp only [Option.map_eq_some_iff, numeral_eq_some_iff]
        constructor
        · rintro ⟨n, ⟨h1, h2, rfl⟩, rfl⟩; exact ⟨b :: ds, h1, h2, .inl ⟨rfl, rfl⟩⟩
        · rintro ⟨es, h1, h2, ⟨rfl, rfl⟩ | ⟨h, -⟩ | ⟨h, -⟩⟩
          · exact ⟨_, ⟨h1, h2, rfl⟩, rfl⟩
          · cases h; exact absurd rfl hp
          · cases h; exact absurd rfl hm

/-- `uspsValue` reads exactly the decimal numerals, each at its value (R88). -/
theorem uspsValue_eq_some_iff (arg : List Byte) (v : Nat) :
    uspsValue arg = some v ↔ SpellsUsps arg v := by
  have value : ∀ is fs : List Byte, natOfDigits is * 1000000 + fraction fs =
      spelled is * 1000000 + spelled ((fs ++ List.replicate 6 0x30#8).take 6) := by
    intro is fs; rw [fraction, natOfDigits_eq_spelled, natOfDigits_eq_spelled]; rfl
  constructor
  · intro h
    have hsplit := List.takeWhile_append_dropWhile (p := fun b => decide (b ≠ bytePoint)) (l := arg)
    unfold uspsValue at h
    split at h
    · simp only [Option.map_eq_some_iff, numeral_eq_some_iff] at h
      obtain ⟨n, ⟨h1, h2, rfl⟩, rfl⟩ := h
      exact .inl ⟨h1, h2, rfl⟩
    · rename_i c fs hd
      dsimp only at h
      split at h
      · rename_i hc
        have hcp : c = bytePoint := by
          have := List.head?_dropWhile_not (fun b => decide (b ≠ bytePoint)) arg
          rw [hd] at this; simpa using this
        rw [hd, hcp] at hsplit
        cases h
        exact .inr ⟨_, fs, hsplit.symm, (digitsOnly_iff _).2 hc.1, (digitsOnly_iff _).2 hc.2.1, hc.2.2,
          value _ _⟩
      · cases h
  · rintro (⟨h1, h2, rfl⟩ | ⟨is, fs, rfl, h1, h2, h3, rfl⟩)
    · have : arg.dropWhile (· ≠ bytePoint) = [] := by
        rw [List.dropWhile_eq_nil_iff]; exact digits_no_point ((digitsOnly_iff _).1 h2)
      simp only [uspsValue, this, (numeral_eq_some_iff _ _).2 ⟨h1, h2, rfl⟩, Option.map_some]
    · obtain ⟨e1, e2⟩ := split_at_point (fs := fs) ((digitsOnly_iff _).1 h1)
      change uspsValue (is ++ bytePoint :: fs) = _
      simp only [uspsValue, e1, e2]
      rw [if_pos ⟨(digitsOnly_iff _).1 h1, (digitsOnly_iff _).1 h2, h3⟩, value]

/-- A clean line holds neither LF nor CR (R81). -/
theorem lineClean_iff (l : Line) : lineClean l = true ↔ 0x0A#8 ∉ l ∧ 0x0D#8 ∉ l := by
  simp only [lineClean, isTerminator, List.all_eq_true, Bool.not_eq_true', Bool.or_eq_false_iff,
    decide_eq_false_iff_not]
  exact ⟨fun h => ⟨fun m => (h _ m).1 rfl, fun m => (h _ m).2 rfl⟩,
    fun h b m => ⟨fun e => h.1 (e ▸ m), fun e => h.2 (e ▸ m)⟩⟩

/-- The framer hands over lines without terminators, and keeps none back (R81). -/
theorem frameBytes_clean (cur bs : List Byte) (h : lineClean cur = true) :
    (frameBytes cur bs).1.all lineClean = true ∧ lineClean (frameBytes cur bs).2 = true := by
  induction bs generalizing cur with
  | nil => simp [frameBytes, h]
  | cons b bs ih =>
    unfold frameBytes
    split
    · have := ih [] rfl; simp [h, this]
    · apply ih; simp [lineClean] at *; simp_all

end Machine

end Sys2Proof
end

