-- ==== Sys2Proof/Laws/State.lean ====
section
/-! SUPPORT. One lemma per field of `State` per named update, each true by computation and tagged
`simp`, so that no later proof unfolds a record update. -/

namespace Sys2Proof.Machine

/-! ### `setRemoteJog` -/

@[simp] theorem setRemoteJog_params (l r : Bool) (s : State) : (setRemoteJog l r s).params = s.params := rfl
@[simp] theorem setRemoteJog_mode (l r : Bool) (s : State) : (setRemoteJog l r s).mode = s.mode := rfl
@[simp] theorem setRemoteJog_reversing (l r : Bool) (s : State) : (setRemoteJog l r s).reversing = s.reversing := rfl
@[simp] theorem setRemoteJog_currentSpeed (l r : Bool) (s : State) : (setRemoteJog l r s).currentSpeed = s.currentSpeed := rfl
@[simp] theorem setRemoteJog_direction (l r : Bool) (s : State) : (setRemoteJog l r s).direction = s.direction := rfl
@[simp] theorem setRemoteJog_position (l r : Bool) (s : State) : (setRemoteJog l r s).position = s.position := rfl
@[simp] theorem setRemoteJog_target (l r : Bool) (s : State) : (setRemoteJog l r s).target = s.target := rfl
@[simp] theorem setRemoteJog_commandedTarget (l r : Bool) (s : State) : (setRemoteJog l r s).commandedTarget = s.commandedTarget := rfl
@[simp] theorem setRemoteJog_pendingDirection (l r : Bool) (s : State) : (setRemoteJog l r s).pendingDirection = s.pendingDirection := rfl
@[simp] theorem setRemoteJog_motionStartTime (l r : Bool) (s : State) : (setRemoteJog l r s).motionStartTime = s.motionStartTime := rfl
@[simp] theorem setRemoteJog_nextStepDeadline (l r : Bool) (s : State) : (setRemoteJog l r s).nextStepDeadline = s.nextStepDeadline := rfl
@[simp] theorem setRemoteJog_btnHome (l r : Bool) (s : State) : (setRemoteJog l r s).btnHome = s.btnHome := rfl
@[simp] theorem setRemoteJog_btnWell (l r : Bool) (s : State) : (setRemoteJog l r s).btnWell = s.btnWell := rfl
@[simp] theorem setRemoteJog_slotHome (l r : Bool) (s : State) : (setRemoteJog l r s).slotHome = s.slotHome := rfl
@[simp] theorem setRemoteJog_slotWell (l r : Bool) (s : State) : (setRemoteJog l r s).slotWell = s.slotWell := rfl
@[simp] theorem setRemoteJog_remoteJogLeft (l r : Bool) (s : State) :
    (setRemoteJog l r s).remoteJogLeft = l := rfl
@[simp] theorem setRemoteJog_remoteJogRight (l r : Bool) (s : State) :
    (setRemoteJog l r s).remoteJogRight = r := rfl
@[simp] theorem setRemoteJog_vJogMax (l r : Bool) (s : State) : (setRemoteJog l r s).vJogMax = s.vJogMax := rfl
@[simp] theorem setRemoteJog_vMoveMax (l r : Bool) (s : State) : (setRemoteJog l r s).vMoveMax = s.vMoveMax := rfl
@[simp] theorem setRemoteJog_lastTickTime (l r : Bool) (s : State) : (setRemoteJog l r s).lastTickTime = s.lastTickTime := rfl
@[simp] theorem setRemoteJog_enabled (l r : Bool) (s : State) : (setRemoteJog l r s).enabled = s.enabled := rfl
@[simp] theorem setRemoteJog_settleStart (l r : Bool) (s : State) : (setRemoteJog l r s).settleStart = s.settleStart := rfl
@[simp] theorem setRemoteJog_prevDemand (l r : Bool) (s : State) : (setRemoteJog l r s).prevDemand = s.prevDemand := rfl
@[simp] theorem setRemoteJog_brakeStart (l r : Bool) (s : State) : (setRemoteJog l r s).brakeStart = s.brakeStart := rfl
@[simp] theorem setRemoteJog_brakeHold (l r : Bool) (s : State) : (setRemoteJog l r s).brakeHold = s.brakeHold := rfl
@[simp] theorem setRemoteJog_dirOut (l r : Bool) (s : State) : (setRemoteJog l r s).dirOut = s.dirOut := rfl
@[simp] theorem setRemoteJog_stepOut (l r : Bool) (s : State) : (setRemoteJog l r s).stepOut = s.stepOut := rfl
@[simp] theorem setRemoteJog_trace (l r : Bool) (s : State) : (setRemoteJog l r s).trace = s.trace := rfl
@[simp] theorem setRemoteJog_now (l r : Bool) (s : State) : (setRemoteJog l r s).now = s.now := rfl
@[simp] theorem setRemoteJog_estopSeen (l r : Bool) (s : State) : (setRemoteJog l r s).estopSeen = s.estopSeen := rfl
@[simp] theorem setRemoteJog_rxPartial (l r : Bool) (s : State) : (setRemoteJog l r s).rxPartial = s.rxPartial := rfl
@[simp] theorem setRemoteJog_lineQueue (l r : Bool) (s : State) : (setRemoteJog l r s).lineQueue = s.lineQueue := rfl
@[simp] theorem setRemoteJog_script (l r : Bool) (s : State) : (setRemoteJog l r s).script = s.script := rfl
@[simp] theorem setRemoteJog_drawCount (l r : Bool) (s : State) : (setRemoteJog l r s).drawCount = s.drawCount := rfl

/-! ### `trip` -/

@[simp] theorem trip_params (s : State) : (trip s).params = s.params := rfl
@[simp] theorem trip_mode (s : State) :
    (trip s).mode = .idle := rfl
@[simp] theorem trip_reversing (s : State) :
    (trip s).reversing = false := rfl
@[simp] theorem trip_currentSpeed (s : State) :
    (trip s).currentSpeed = 0#64 := rfl
@[simp] theorem trip_direction (s : State) : (trip s).direction = s.direction := rfl
@[simp] theorem trip_position (s : State) : (trip s).position = s.position := rfl
@[simp] theorem trip_target (s : State) :
    (trip s).target = s.position := rfl
@[simp] theorem trip_commandedTarget (s : State) : (trip s).commandedTarget = s.commandedTarget := rfl
@[simp] theorem trip_pendingDirection (s : State) : (trip s).pendingDirection = s.pendingDirection := rfl
@[simp] theorem trip_motionStartTime (s : State) : (trip s).motionStartTime = s.motionStartTime := rfl
@[simp] theorem trip_nextStepDeadline (s : State) : (trip s).nextStepDeadline = s.nextStepDeadline := rfl
@[simp] theorem trip_btnHome (s : State) : (trip s).btnHome = s.btnHome := rfl
@[simp] theorem trip_btnWell (s : State) : (trip s).btnWell = s.btnWell := rfl
@[simp] theorem trip_slotHome (s : State) : (trip s).slotHome = s.slotHome := rfl
@[simp] theorem trip_slotWell (s : State) : (trip s).slotWell = s.slotWell := rfl
@[simp] theorem trip_remoteJogLeft (s : State) :
    (trip s).remoteJogLeft = false := rfl
@[simp] theorem trip_remoteJogRight (s : State) :
    (trip s).remoteJogRight = false := rfl
@[simp] theorem trip_vJogMax (s : State) : (trip s).vJogMax = s.vJogMax := rfl
@[simp] theorem trip_vMoveMax (s : State) : (trip s).vMoveMax = s.vMoveMax := rfl
@[simp] theorem trip_lastTickTime (s : State) : (trip s).lastTickTime = s.lastTickTime := rfl
@[simp] theorem trip_enabled (s : State) :
    (trip s).enabled = false := rfl
@[simp] theorem trip_settleStart (s : State) : (trip s).settleStart = s.settleStart := rfl
@[simp] theorem trip_prevDemand (s : State) :
    (trip s).prevDemand = .neutral := rfl
@[simp] theorem trip_brakeStart (s : State) : (trip s).brakeStart = s.brakeStart := rfl
@[simp] theorem trip_brakeHold (s : State) :
    (trip s).brakeHold = false := rfl
@[simp] theorem trip_dirOut (s : State) : (trip s).dirOut = s.dirOut := rfl
@[simp] theorem trip_stepOut (s : State) : (trip s).stepOut = s.stepOut := rfl
@[simp] theorem trip_trace (s : State) : (trip s).trace = s.trace := rfl
@[simp] theorem trip_now (s : State) : (trip s).now = s.now := rfl
@[simp] theorem trip_estopSeen (s : State) : (trip s).estopSeen = s.estopSeen := rfl
@[simp] theorem trip_rxPartial (s : State) : (trip s).rxPartial = s.rxPartial := rfl
@[simp] theorem trip_lineQueue (s : State) : (trip s).lineQueue = s.lineQueue := rfl
@[simp] theorem trip_script (s : State) : (trip s).script = s.script := rfl
@[simp] theorem trip_drawCount (s : State) : (trip s).drawCount = s.drawCount := rfl

/-! ### `beginMove` -/

@[simp] theorem beginMove_params (t : Word) (s : State) : (beginMove t s).params = s.params := rfl
@[simp] theorem beginMove_mode (t : Word) (s : State) :
    (beginMove t s).mode = .move := rfl
@[simp] theorem beginMove_reversing (t : Word) (s : State) :
    (beginMove t s).reversing = false := rfl
@[simp] theorem beginMove_currentSpeed (t : Word) (s : State) : (beginMove t s).currentSpeed = s.currentSpeed := rfl
@[simp] theorem beginMove_direction (t : Word) (s : State) :
    (beginMove t s).direction = dirOf (t.toInt - s.position.toInt) := rfl
@[simp] theorem beginMove_position (t : Word) (s : State) : (beginMove t s).position = s.position := rfl
@[simp] theorem beginMove_target (t : Word) (s : State) :
    (beginMove t s).target = t := rfl
@[simp] theorem beginMove_commandedTarget (t : Word) (s : State) :
    (beginMove t s).commandedTarget = t := rfl
@[simp] theorem beginMove_pendingDirection (t : Word) (s : State) : (beginMove t s).pendingDirection = s.pendingDirection := rfl
@[simp] theorem beginMove_motionStartTime (t : Word) (s : State) :
    (beginMove t s).motionStartTime = s.now := rfl
@[simp] theorem beginMove_nextStepDeadline (t : Word) (s : State) : (beginMove t s).nextStepDeadline = s.nextStepDeadline := rfl
@[simp] theorem beginMove_btnHome (t : Word) (s : State) : (beginMove t s).btnHome = s.btnHome := rfl
@[simp] theorem beginMove_btnWell (t : Word) (s : State) : (beginMove t s).btnWell = s.btnWell := rfl
@[simp] theorem beginMove_slotHome (t : Word) (s : State) : (beginMove t s).slotHome = s.slotHome := rfl
@[simp] theorem beginMove_slotWell (t : Word) (s : State) : (beginMove t s).slotWell = s.slotWell := rfl
@[simp] theorem beginMove_remoteJogLeft (t : Word) (s : State) : (beginMove t s).remoteJogLeft = s.remoteJogLeft := rfl
@[simp] theorem beginMove_remoteJogRight (t : Word) (s : State) : (beginMove t s).remoteJogRight = s.remoteJogRight := rfl
@[simp] theorem beginMove_vJogMax (t : Word) (s : State) : (beginMove t s).vJogMax = s.vJogMax := rfl
@[simp] theorem beginMove_vMoveMax (t : Word) (s : State) : (beginMove t s).vMoveMax = s.vMoveMax := rfl
@[simp] theorem beginMove_lastTickTime (t : Word) (s : State) : (beginMove t s).lastTickTime = s.lastTickTime := rfl
@[simp] theorem beginMove_enabled (t : Word) (s : State) : (beginMove t s).enabled = s.enabled := rfl
@[simp] theorem beginMove_settleStart (t : Word) (s : State) : (beginMove t s).settleStart = s.settleStart := rfl
@[simp] theorem beginMove_prevDemand (t : Word) (s : State) : (beginMove t s).prevDemand = s.prevDemand := rfl
@[simp] theorem beginMove_brakeStart (t : Word) (s : State) : (beginMove t s).brakeStart = s.brakeStart := rfl
@[simp] theorem beginMove_brakeHold (t : Word) (s : State) : (beginMove t s).brakeHold = s.brakeHold := rfl
@[simp] theorem beginMove_dirOut (t : Word) (s : State) : (beginMove t s).dirOut = s.dirOut := rfl
@[simp] theorem beginMove_stepOut (t : Word) (s : State) : (beginMove t s).stepOut = s.stepOut := rfl
@[simp] theorem beginMove_trace (t : Word) (s : State) : (beginMove t s).trace = s.trace := rfl
@[simp] theorem beginMove_now (t : Word) (s : State) : (beginMove t s).now = s.now := rfl
@[simp] theorem beginMove_estopSeen (t : Word) (s : State) : (beginMove t s).estopSeen = s.estopSeen := rfl
@[simp] theorem beginMove_rxPartial (t : Word) (s : State) : (beginMove t s).rxPartial = s.rxPartial := rfl
@[simp] theorem beginMove_lineQueue (t : Word) (s : State) : (beginMove t s).lineQueue = s.lineQueue := rfl
@[simp] theorem beginMove_script (t : Word) (s : State) : (beginMove t s).script = s.script := rfl
@[simp] theorem beginMove_drawCount (t : Word) (s : State) : (beginMove t s).drawCount = s.drawCount := rfl

/-! ### `startFromIdle` -/

@[simp] theorem startFromIdle_params (s : State) : (startFromIdle s).params = s.params := rfl
@[simp] theorem startFromIdle_mode (s : State) : (startFromIdle s).mode = s.mode := rfl
@[simp] theorem startFromIdle_reversing (s : State) : (startFromIdle s).reversing = s.reversing := rfl
@[simp] theorem startFromIdle_currentSpeed (s : State) :
    (startFromIdle s).currentSpeed = toWord s.params.vStart := rfl
@[simp] theorem startFromIdle_direction (s : State) : (startFromIdle s).direction = s.direction := rfl
@[simp] theorem startFromIdle_position (s : State) : (startFromIdle s).position = s.position := rfl
@[simp] theorem startFromIdle_target (s : State) : (startFromIdle s).target = s.target := rfl
@[simp] theorem startFromIdle_commandedTarget (s : State) : (startFromIdle s).commandedTarget = s.commandedTarget := rfl
@[simp] theorem startFromIdle_pendingDirection (s : State) : (startFromIdle s).pendingDirection = s.pendingDirection := rfl
@[simp] theorem startFromIdle_motionStartTime (s : State) : (startFromIdle s).motionStartTime = s.motionStartTime := rfl
@[simp] theorem startFromIdle_nextStepDeadline (s : State) :
    (startFromIdle s).nextStepDeadline = s.now := rfl
@[simp] theorem startFromIdle_btnHome (s : State) : (startFromIdle s).btnHome = s.btnHome := rfl
@[simp] theorem startFromIdle_btnWell (s : State) : (startFromIdle s).btnWell = s.btnWell := rfl
@[simp] theorem startFromIdle_slotHome (s : State) : (startFromIdle s).slotHome = s.slotHome := rfl
@[simp] theorem startFromIdle_slotWell (s : State) : (startFromIdle s).slotWell = s.slotWell := rfl
@[simp] theorem startFromIdle_remoteJogLeft (s : State) : (startFromIdle s).remoteJogLeft = s.remoteJogLeft := rfl
@[simp] theorem startFromIdle_remoteJogRight (s : State) : (startFromIdle s).remoteJogRight = s.remoteJogRight := rfl
@[simp] theorem startFromIdle_vJogMax (s : State) : (startFromIdle s).vJogMax = s.vJogMax := rfl
@[simp] theorem startFromIdle_vMoveMax (s : State) : (startFromIdle s).vMoveMax = s.vMoveMax := rfl
@[simp] theorem startFromIdle_lastTickTime (s : State) : (startFromIdle s).lastTickTime = s.lastTickTime := rfl
@[simp] theorem startFromIdle_enabled (s : State) : (startFromIdle s).enabled = s.enabled := rfl
@[simp] theorem startFromIdle_settleStart (s : State) : (startFromIdle s).settleStart = s.settleStart := rfl
@[simp] theorem startFromIdle_prevDemand (s : State) : (startFromIdle s).prevDemand = s.prevDemand := rfl
@[simp] theorem startFromIdle_brakeStart (s : State) : (startFromIdle s).brakeStart = s.brakeStart := rfl
@[simp] theorem startFromIdle_brakeHold (s : State) : (startFromIdle s).brakeHold = s.brakeHold := rfl
@[simp] theorem startFromIdle_dirOut (s : State) : (startFromIdle s).dirOut = s.dirOut := rfl
@[simp] theorem startFromIdle_stepOut (s : State) : (startFromIdle s).stepOut = s.stepOut := rfl
@[simp] theorem startFromIdle_trace (s : State) : (startFromIdle s).trace = s.trace := rfl
@[simp] theorem startFromIdle_now (s : State) : (startFromIdle s).now = s.now := rfl
@[simp] theorem startFromIdle_estopSeen (s : State) : (startFromIdle s).estopSeen = s.estopSeen := rfl
@[simp] theorem startFromIdle_rxPartial (s : State) : (startFromIdle s).rxPartial = s.rxPartial := rfl
@[simp] theorem startFromIdle_lineQueue (s : State) : (startFromIdle s).lineQueue = s.lineQueue := rfl
@[simp] theorem startFromIdle_script (s : State) : (startFromIdle s).script = s.script := rfl
@[simp] theorem startFromIdle_drawCount (s : State) : (startFromIdle s).drawCount = s.drawCount := rfl

/-! ### `pulse` -/

@[simp] theorem pulse_params (iv : Nat) (s : State) : (pulse iv s).params = s.params := rfl
@[simp] theorem pulse_mode (iv : Nat) (s : State) : (pulse iv s).mode = s.mode := rfl
@[simp] theorem pulse_reversing (iv : Nat) (s : State) : (pulse iv s).reversing = s.reversing := rfl
@[simp] theorem pulse_currentSpeed (iv : Nat) (s : State) : (pulse iv s).currentSpeed = s.currentSpeed := rfl
@[simp] theorem pulse_direction (iv : Nat) (s : State) : (pulse iv s).direction = s.direction := rfl
@[simp] theorem pulse_position (iv : Nat) (s : State) :
    (pulse iv s).position = wrap64 (s.position.toInt + s.direction.val) := rfl
@[simp] theorem pulse_target (iv : Nat) (s : State) : (pulse iv s).target = s.target := rfl
@[simp] theorem pulse_commandedTarget (iv : Nat) (s : State) : (pulse iv s).commandedTarget = s.commandedTarget := rfl
@[simp] theorem pulse_pendingDirection (iv : Nat) (s : State) : (pulse iv s).pendingDirection = s.pendingDirection := rfl
@[simp] theorem pulse_motionStartTime (iv : Nat) (s : State) : (pulse iv s).motionStartTime = s.motionStartTime := rfl
@[simp] theorem pulse_nextStepDeadline (iv : Nat) (s : State) :
    (pulse iv s).nextStepDeadline = toWord (s.nextStepDeadline.toNat + iv) := rfl
@[simp] theorem pulse_btnHome (iv : Nat) (s : State) : (pulse iv s).btnHome = s.btnHome := rfl
@[simp] theorem pulse_btnWell (iv : Nat) (s : State) : (pulse iv s).btnWell = s.btnWell := rfl
@[simp] theorem pulse_slotHome (iv : Nat) (s : State) : (pulse iv s).slotHome = s.slotHome := rfl
@[simp] theorem pulse_slotWell (iv : Nat) (s : State) : (pulse iv s).slotWell = s.slotWell := rfl
@[simp] theorem pulse_remoteJogLeft (iv : Nat) (s : State) : (pulse iv s).remoteJogLeft = s.remoteJogLeft := rfl
@[simp] theorem pulse_remoteJogRight (iv : Nat) (s : State) : (pulse iv s).remoteJogRight = s.remoteJogRight := rfl
@[simp] theorem pulse_vJogMax (iv : Nat) (s : State) : (pulse iv s).vJogMax = s.vJogMax := rfl
@[simp] theorem pulse_vMoveMax (iv : Nat) (s : State) : (pulse iv s).vMoveMax = s.vMoveMax := rfl
@[simp] theorem pulse_lastTickTime (iv : Nat) (s : State) : (pulse iv s).lastTickTime = s.lastTickTime := rfl
@[simp] theorem pulse_enabled (iv : Nat) (s : State) : (pulse iv s).enabled = s.enabled := rfl
@[simp] theorem pulse_settleStart (iv : Nat) (s : State) : (pulse iv s).settleStart = s.settleStart := rfl
@[simp] theorem pulse_prevDemand (iv : Nat) (s : State) : (pulse iv s).prevDemand = s.prevDemand := rfl
@[simp] theorem pulse_brakeStart (iv : Nat) (s : State) : (pulse iv s).brakeStart = s.brakeStart := rfl
@[simp] theorem pulse_brakeHold (iv : Nat) (s : State) : (pulse iv s).brakeHold = s.brakeHold := rfl
@[simp] theorem pulse_dirOut (iv : Nat) (s : State) :
    (pulse iv s).dirOut = s.direction.bit := rfl
@[simp] theorem pulse_stepOut (iv : Nat) (s : State) :
    (pulse iv s).stepOut = false := rfl
@[simp] theorem pulse_trace (iv : Nat) (s : State) :
    (pulse iv s).trace = s.trace ++ [s.direction] := rfl
@[simp] theorem pulse_now (iv : Nat) (s : State) : (pulse iv s).now = s.now := rfl
@[simp] theorem pulse_estopSeen (iv : Nat) (s : State) : (pulse iv s).estopSeen = s.estopSeen := rfl
@[simp] theorem pulse_rxPartial (iv : Nat) (s : State) : (pulse iv s).rxPartial = s.rxPartial := rfl
@[simp] theorem pulse_lineQueue (iv : Nat) (s : State) : (pulse iv s).lineQueue = s.lineQueue := rfl
@[simp] theorem pulse_script (iv : Nat) (s : State) : (pulse iv s).script = s.script := rfl
@[simp] theorem pulse_drawCount (iv : Nat) (s : State) : (pulse iv s).drawCount = s.drawCount := rfl

/-! ### `sampleInputs` -/

@[simp] theorem sampleInputs_params (now : Word) (inp : Levels) (s : State) : (sampleInputs now inp s).params = s.params := rfl
@[simp] theorem sampleInputs_mode (now : Word) (inp : Levels) (s : State) : (sampleInputs now inp s).mode = s.mode := rfl
@[simp] theorem sampleInputs_reversing (now : Word) (inp : Levels) (s : State) : (sampleInputs now inp s).reversing = s.reversing := rfl
@[simp] theorem sampleInputs_currentSpeed (now : Word) (inp : Levels) (s : State) : (sampleInputs now inp s).currentSpeed = s.currentSpeed := rfl
@[simp] theorem sampleInputs_direction (now : Word) (inp : Levels) (s : State) : (sampleInputs now inp s).direction = s.direction := rfl
@[simp] theorem sampleInputs_position (now : Word) (inp : Levels) (s : State) : (sampleInputs now inp s).position = s.position := rfl
@[simp] theorem sampleInputs_target (now : Word) (inp : Levels) (s : State) : (sampleInputs now inp s).target = s.target := rfl
@[simp] theorem sampleInputs_commandedTarget (now : Word) (inp : Levels) (s : State) : (sampleInputs now inp s).commandedTarget = s.commandedTarget := rfl
@[simp] theorem sampleInputs_pendingDirection (now : Word) (inp : Levels) (s : State) : (sampleInputs now inp s).pendingDirection = s.pendingDirection := rfl
@[simp] theorem sampleInputs_motionStartTime (now : Word) (inp : Levels) (s : State) : (sampleInputs now inp s).motionStartTime = s.motionStartTime := rfl
@[simp] theorem sampleInputs_nextStepDeadline (now : Word) (inp : Levels) (s : State) : (sampleInputs now inp s).nextStepDeadline = s.nextStepDeadline := rfl
@[simp] theorem sampleInputs_btnHome (now : Word) (inp : Levels) (s : State) : (sampleInputs now inp s).btnHome = s.btnHome := rfl
@[simp] theorem sampleInputs_btnWell (now : Word) (inp : Levels) (s : State) : (sampleInputs now inp s).btnWell = s.btnWell := rfl
@[simp] theorem sampleInputs_slotHome (now : Word) (inp : Levels) (s : State) : (sampleInputs now inp s).slotHome = s.slotHome := rfl
@[simp] theorem sampleInputs_slotWell (now : Word) (inp : Levels) (s : State) : (sampleInputs now inp s).slotWell = s.slotWell := rfl
@[simp] theorem sampleInputs_remoteJogLeft (now : Word) (inp : Levels) (s : State) : (sampleInputs now inp s).remoteJogLeft = s.remoteJogLeft := rfl
@[simp] theorem sampleInputs_remoteJogRight (now : Word) (inp : Levels) (s : State) : (sampleInputs now inp s).remoteJogRight = s.remoteJogRight := rfl
@[simp] theorem sampleInputs_vJogMax (now : Word) (inp : Levels) (s : State) : (sampleInputs now inp s).vJogMax = s.vJogMax := rfl
@[simp] theorem sampleInputs_vMoveMax (now : Word) (inp : Levels) (s : State) : (sampleInputs now inp s).vMoveMax = s.vMoveMax := rfl
@[simp] theorem sampleInputs_lastTickTime (now : Word) (inp : Levels) (s : State) : (sampleInputs now inp s).lastTickTime = s.lastTickTime := rfl
@[simp] theorem sampleInputs_enabled (now : Word) (inp : Levels) (s : State) : (sampleInputs now inp s).enabled = s.enabled := rfl
@[simp] theorem sampleInputs_settleStart (now : Word) (inp : Levels) (s : State) : (sampleInputs now inp s).settleStart = s.settleStart := rfl
@[simp] theorem sampleInputs_prevDemand (now : Word) (inp : Levels) (s : State) : (sampleInputs now inp s).prevDemand = s.prevDemand := rfl
@[simp] theorem sampleInputs_brakeStart (now : Word) (inp : Levels) (s : State) : (sampleInputs now inp s).brakeStart = s.brakeStart := rfl
@[simp] theorem sampleInputs_brakeHold (now : Word) (inp : Levels) (s : State) : (sampleInputs now inp s).brakeHold = s.brakeHold := rfl
@[simp] theorem sampleInputs_dirOut (now : Word) (inp : Levels) (s : State) : (sampleInputs now inp s).dirOut = s.dirOut := rfl
@[simp] theorem sampleInputs_stepOut (now : Word) (inp : Levels) (s : State) : (sampleInputs now inp s).stepOut = s.stepOut := rfl
@[simp] theorem sampleInputs_trace (now : Word) (inp : Levels) (s : State) :
    (sampleInputs now inp s).trace = [] := rfl
@[simp] theorem sampleInputs_now (now : Word) (inp : Levels) (s : State) :
    (sampleInputs now inp s).now = now := rfl
@[simp] theorem sampleInputs_estopSeen (now : Word) (inp : Levels) (s : State) :
    (sampleInputs now inp s).estopSeen = some inp.estop := rfl
@[simp] theorem sampleInputs_rxPartial (now : Word) (inp : Levels) (s : State) : (sampleInputs now inp s).rxPartial = s.rxPartial := rfl
@[simp] theorem sampleInputs_lineQueue (now : Word) (inp : Levels) (s : State) : (sampleInputs now inp s).lineQueue = s.lineQueue := rfl
@[simp] theorem sampleInputs_script (now : Word) (inp : Levels) (s : State) : (sampleInputs now inp s).script = s.script := rfl
@[simp] theorem sampleInputs_drawCount (now : Word) (inp : Levels) (s : State) :
    (sampleInputs now inp s).drawCount = s.drawCount + 1 := rfl

/-! ### `endTick` -/

@[simp] theorem endTick_params (s : State) : (endTick s).params = s.params := rfl
@[simp] theorem endTick_mode (s : State) : (endTick s).mode = s.mode := rfl
@[simp] theorem endTick_reversing (s : State) : (endTick s).reversing = s.reversing := rfl
@[simp] theorem endTick_currentSpeed (s : State) : (endTick s).currentSpeed = s.currentSpeed := rfl
@[simp] theorem endTick_direction (s : State) : (endTick s).direction = s.direction := rfl
@[simp] theorem endTick_position (s : State) : (endTick s).position = s.position := rfl
@[simp] theorem endTick_target (s : State) : (endTick s).target = s.target := rfl
@[simp] theorem endTick_commandedTarget (s : State) : (endTick s).commandedTarget = s.commandedTarget := rfl
@[simp] theorem endTick_pendingDirection (s : State) : (endTick s).pendingDirection = s.pendingDirection := rfl
@[simp] theorem endTick_motionStartTime (s : State) : (endTick s).motionStartTime = s.motionStartTime := rfl
@[simp] theorem endTick_nextStepDeadline (s : State) : (endTick s).nextStepDeadline = s.nextStepDeadline := rfl
@[simp] theorem endTick_btnHome (s : State) : (endTick s).btnHome = s.btnHome := rfl
@[simp] theorem endTick_btnWell (s : State) : (endTick s).btnWell = s.btnWell := rfl
@[simp] theorem endTick_slotHome (s : State) : (endTick s).slotHome = s.slotHome := rfl
@[simp] theorem endTick_slotWell (s : State) : (endTick s).slotWell = s.slotWell := rfl
@[simp] theorem endTick_remoteJogLeft (s : State) : (endTick s).remoteJogLeft = s.remoteJogLeft := rfl
@[simp] theorem endTick_remoteJogRight (s : State) : (endTick s).remoteJogRight = s.remoteJogRight := rfl
@[simp] theorem endTick_vJogMax (s : State) : (endTick s).vJogMax = s.vJogMax := rfl
@[simp] theorem endTick_vMoveMax (s : State) : (endTick s).vMoveMax = s.vMoveMax := rfl
@[simp] theorem endTick_lastTickTime (s : State) :
    (endTick s).lastTickTime = s.now := rfl
@[simp] theorem endTick_enabled (s : State) : (endTick s).enabled = s.enabled := rfl
@[simp] theorem endTick_settleStart (s : State) : (endTick s).settleStart = s.settleStart := rfl
@[simp] theorem endTick_prevDemand (s : State) : (endTick s).prevDemand = s.prevDemand := rfl
@[simp] theorem endTick_brakeStart (s : State) : (endTick s).brakeStart = s.brakeStart := rfl
@[simp] theorem endTick_brakeHold (s : State) : (endTick s).brakeHold = s.brakeHold := rfl
@[simp] theorem endTick_dirOut (s : State) : (endTick s).dirOut = s.dirOut := rfl
@[simp] theorem endTick_stepOut (s : State) : (endTick s).stepOut = s.stepOut := rfl
@[simp] theorem endTick_trace (s : State) : (endTick s).trace = s.trace := rfl
@[simp] theorem endTick_now (s : State) : (endTick s).now = s.now := rfl
@[simp] theorem endTick_estopSeen (s : State) : (endTick s).estopSeen = s.estopSeen := rfl
@[simp] theorem endTick_rxPartial (s : State) : (endTick s).rxPartial = s.rxPartial := rfl
@[simp] theorem endTick_lineQueue (s : State) : (endTick s).lineQueue = s.lineQueue := rfl
@[simp] theorem endTick_script (s : State) : (endTick s).script = s.script := rfl
@[simp] theorem endTick_drawCount (s : State) : (endTick s).drawCount = s.drawCount := rfl

/-! ### `setBtn` -/

@[simp] theorem setBtn_params (k : Slot) (b : ButtonState) (s : State) : (State.setBtn k b s).params = s.params := by cases k <;> rfl
@[simp] theorem setBtn_mode (k : Slot) (b : ButtonState) (s : State) : (State.setBtn k b s).mode = s.mode := by cases k <;> rfl
@[simp] theorem setBtn_reversing (k : Slot) (b : ButtonState) (s : State) : (State.setBtn k b s).reversing = s.reversing := by cases k <;> rfl
@[simp] theorem setBtn_currentSpeed (k : Slot) (b : ButtonState) (s : State) : (State.setBtn k b s).currentSpeed = s.currentSpeed := by cases k <;> rfl
@[simp] theorem setBtn_direction (k : Slot) (b : ButtonState) (s : State) : (State.setBtn k b s).direction = s.direction := by cases k <;> rfl
@[simp] theorem setBtn_position (k : Slot) (b : ButtonState) (s : State) : (State.setBtn k b s).position = s.position := by cases k <;> rfl
@[simp] theorem setBtn_target (k : Slot) (b : ButtonState) (s : State) : (State.setBtn k b s).target = s.target := by cases k <;> rfl
@[simp] theorem setBtn_commandedTarget (k : Slot) (b : ButtonState) (s : State) : (State.setBtn k b s).commandedTarget = s.commandedTarget := by cases k <;> rfl
@[simp] theorem setBtn_pendingDirection (k : Slot) (b : ButtonState) (s : State) : (State.setBtn k b s).pendingDirection = s.pendingDirection := by cases k <;> rfl
@[simp] theorem setBtn_motionStartTime (k : Slot) (b : ButtonState) (s : State) : (State.setBtn k b s).motionStartTime = s.motionStartTime := by cases k <;> rfl
@[simp] theorem setBtn_nextStepDeadline (k : Slot) (b : ButtonState) (s : State) : (State.setBtn k b s).nextStepDeadline = s.nextStepDeadline := by cases k <;> rfl
@[simp] theorem setBtn_slotHome (k : Slot) (b : ButtonState) (s : State) : (State.setBtn k b s).slotHome = s.slotHome := by cases k <;> rfl
@[simp] theorem setBtn_slotWell (k : Slot) (b : ButtonState) (s : State) : (State.setBtn k b s).slotWell = s.slotWell := by cases k <;> rfl
@[simp] theorem setBtn_remoteJogLeft (k : Slot) (b : ButtonState) (s : State) : (State.setBtn k b s).remoteJogLeft = s.remoteJogLeft := by cases k <;> rfl
@[simp] theorem setBtn_remoteJogRight (k : Slot) (b : ButtonState) (s : State) : (State.setBtn k b s).remoteJogRight = s.remoteJogRight := by cases k <;> rfl
@[simp] theorem setBtn_vJogMax (k : Slot) (b : ButtonState) (s : State) : (State.setBtn k b s).vJogMax = s.vJogMax := by cases k <;> rfl
@[simp] theorem setBtn_vMoveMax (k : Slot) (b : ButtonState) (s : State) : (State.setBtn k b s).vMoveMax = s.vMoveMax := by cases k <;> rfl
@[simp] theorem setBtn_lastTickTime (k : Slot) (b : ButtonState) (s : State) : (State.setBtn k b s).lastTickTime = s.lastTickTime := by cases k <;> rfl
@[simp] theorem setBtn_enabled (k : Slot) (b : ButtonState) (s : State) : (State.setBtn k b s).enabled = s.enabled := by cases k <;> rfl
@[simp] theorem setBtn_settleStart (k : Slot) (b : ButtonState) (s : State) : (State.setBtn k b s).settleStart = s.settleStart := by cases k <;> rfl
@[simp] theorem setBtn_prevDemand (k : Slot) (b : ButtonState) (s : State) : (State.setBtn k b s).prevDemand = s.prevDemand := by cases k <;> rfl
@[simp] theorem setBtn_brakeStart (k : Slot) (b : ButtonState) (s : State) : (State.setBtn k b s).brakeStart = s.brakeStart := by cases k <;> rfl
@[simp] theorem setBtn_brakeHold (k : Slot) (b : ButtonState) (s : State) : (State.setBtn k b s).brakeHold = s.brakeHold := by cases k <;> rfl
@[simp] theorem setBtn_dirOut (k : Slot) (b : ButtonState) (s : State) : (State.setBtn k b s).dirOut = s.dirOut := by cases k <;> rfl
@[simp] theorem setBtn_stepOut (k : Slot) (b : ButtonState) (s : State) : (State.setBtn k b s).stepOut = s.stepOut := by cases k <;> rfl
@[simp] theorem setBtn_trace (k : Slot) (b : ButtonState) (s : State) : (State.setBtn k b s).trace = s.trace := by cases k <;> rfl
@[simp] theorem setBtn_now (k : Slot) (b : ButtonState) (s : State) : (State.setBtn k b s).now = s.now := by cases k <;> rfl
@[simp] theorem setBtn_estopSeen (k : Slot) (b : ButtonState) (s : State) : (State.setBtn k b s).estopSeen = s.estopSeen := by cases k <;> rfl
@[simp] theorem setBtn_rxPartial (k : Slot) (b : ButtonState) (s : State) : (State.setBtn k b s).rxPartial = s.rxPartial := by cases k <;> rfl
@[simp] theorem setBtn_lineQueue (k : Slot) (b : ButtonState) (s : State) : (State.setBtn k b s).lineQueue = s.lineQueue := by cases k <;> rfl
@[simp] theorem setBtn_script (k : Slot) (b : ButtonState) (s : State) : (State.setBtn k b s).script = s.script := by cases k <;> rfl
@[simp] theorem setBtn_drawCount (k : Slot) (b : ButtonState) (s : State) : (State.setBtn k b s).drawCount = s.drawCount := by cases k <;> rfl

/-! ### `slotWrite` -/

@[simp] theorem slotWrite_params (k : Slot) (v : Word) (s : State) : (State.slotWrite k v s).params = s.params := by cases k <;> rfl
@[simp] theorem slotWrite_mode (k : Slot) (v : Word) (s : State) : (State.slotWrite k v s).mode = s.mode := by cases k <;> rfl
@[simp] theorem slotWrite_reversing (k : Slot) (v : Word) (s : State) : (State.slotWrite k v s).reversing = s.reversing := by cases k <;> rfl
@[simp] theorem slotWrite_currentSpeed (k : Slot) (v : Word) (s : State) : (State.slotWrite k v s).currentSpeed = s.currentSpeed := by cases k <;> rfl
@[simp] theorem slotWrite_direction (k : Slot) (v : Word) (s : State) : (State.slotWrite k v s).direction = s.direction := by cases k <;> rfl
@[simp] theorem slotWrite_position (k : Slot) (v : Word) (s : State) : (State.slotWrite k v s).position = s.position := by cases k <;> rfl
@[simp] theorem slotWrite_target (k : Slot) (v : Word) (s : State) : (State.slotWrite k v s).target = s.target := by cases k <;> rfl
@[simp] theorem slotWrite_commandedTarget (k : Slot) (v : Word) (s : State) : (State.slotWrite k v s).commandedTarget = s.commandedTarget := by cases k <;> rfl
@[simp] theorem slotWrite_pendingDirection (k : Slot) (v : Word) (s : State) : (State.slotWrite k v s).pendingDirection = s.pendingDirection := by cases k <;> rfl
@[simp] theorem slotWrite_motionStartTime (k : Slot) (v : Word) (s : State) : (State.slotWrite k v s).motionStartTime = s.motionStartTime := by cases k <;> rfl
@[simp] theorem slotWrite_nextStepDeadline (k : Slot) (v : Word) (s : State) : (State.slotWrite k v s).nextStepDeadline = s.nextStepDeadline := by cases k <;> rfl
@[simp] theorem slotWrite_btnHome (k : Slot) (v : Word) (s : State) : (State.slotWrite k v s).btnHome = s.btnHome := by cases k <;> rfl
@[simp] theorem slotWrite_btnWell (k : Slot) (v : Word) (s : State) : (State.slotWrite k v s).btnWell = s.btnWell := by cases k <;> rfl
@[simp] theorem slotWrite_remoteJogLeft (k : Slot) (v : Word) (s : State) : (State.slotWrite k v s).remoteJogLeft = s.remoteJogLeft := by cases k <;> rfl
@[simp] theorem slotWrite_remoteJogRight (k : Slot) (v : Word) (s : State) : (State.slotWrite k v s).remoteJogRight = s.remoteJogRight := by cases k <;> rfl
@[simp] theorem slotWrite_vJogMax (k : Slot) (v : Word) (s : State) : (State.slotWrite k v s).vJogMax = s.vJogMax := by cases k <;> rfl
@[simp] theorem slotWrite_vMoveMax (k : Slot) (v : Word) (s : State) : (State.slotWrite k v s).vMoveMax = s.vMoveMax := by cases k <;> rfl
@[simp] theorem slotWrite_lastTickTime (k : Slot) (v : Word) (s : State) : (State.slotWrite k v s).lastTickTime = s.lastTickTime := by cases k <;> rfl
@[simp] theorem slotWrite_enabled (k : Slot) (v : Word) (s : State) : (State.slotWrite k v s).enabled = s.enabled := by cases k <;> rfl
@[simp] theorem slotWrite_settleStart (k : Slot) (v : Word) (s : State) : (State.slotWrite k v s).settleStart = s.settleStart := by cases k <;> rfl
@[simp] theorem slotWrite_prevDemand (k : Slot) (v : Word) (s : State) : (State.slotWrite k v s).prevDemand = s.prevDemand := by cases k <;> rfl
@[simp] theorem slotWrite_brakeStart (k : Slot) (v : Word) (s : State) : (State.slotWrite k v s).brakeStart = s.brakeStart := by cases k <;> rfl
@[simp] theorem slotWrite_brakeHold (k : Slot) (v : Word) (s : State) : (State.slotWrite k v s).brakeHold = s.brakeHold := by cases k <;> rfl
@[simp] theorem slotWrite_dirOut (k : Slot) (v : Word) (s : State) : (State.slotWrite k v s).dirOut = s.dirOut := by cases k <;> rfl
@[simp] theorem slotWrite_stepOut (k : Slot) (v : Word) (s : State) : (State.slotWrite k v s).stepOut = s.stepOut := by cases k <;> rfl
@[simp] theorem slotWrite_trace (k : Slot) (v : Word) (s : State) : (State.slotWrite k v s).trace = s.trace := by cases k <;> rfl
@[simp] theorem slotWrite_now (k : Slot) (v : Word) (s : State) : (State.slotWrite k v s).now = s.now := by cases k <;> rfl
@[simp] theorem slotWrite_estopSeen (k : Slot) (v : Word) (s : State) : (State.slotWrite k v s).estopSeen = s.estopSeen := by cases k <;> rfl
@[simp] theorem slotWrite_rxPartial (k : Slot) (v : Word) (s : State) : (State.slotWrite k v s).rxPartial = s.rxPartial := by cases k <;> rfl
@[simp] theorem slotWrite_lineQueue (k : Slot) (v : Word) (s : State) : (State.slotWrite k v s).lineQueue = s.lineQueue := by cases k <;> rfl
@[simp] theorem slotWrite_script (k : Slot) (v : Word) (s : State) : (State.slotWrite k v s).script = s.script := by cases k <;> rfl
@[simp] theorem slotWrite_drawCount (k : Slot) (v : Word) (s : State) : (State.slotWrite k v s).drawCount = s.drawCount := by cases k <;> rfl

@[simp] theorem setBtn_btn_self (k : Slot) (b : ButtonState) (s : State) :
    (State.setBtn k b s).btn k = b := by cases k <;> rfl
@[simp] theorem setBtn_slot (j k : Slot) (b : ButtonState) (s : State) :
    (State.setBtn k b s).slot j = s.slot j := by cases k <;> cases j <;> rfl
@[simp] theorem slotWrite_slot_self (k : Slot) (v : Word) (s : State) :
    (State.slotWrite k v s).slot k = { steps := v, saved := true } := by cases k <;> rfl
@[simp] theorem slotWrite_btn (j k : Slot) (v : Word) (s : State) :
    (State.slotWrite k v s).btn j = s.btn j := by cases k <;> cases j <;> rfl
/-- Writing one slot leaves the other alone (R170). -/
theorem slotWrite_slot_other {j k : Slot} (h : j ≠ k) (v : Word) (s : State) :
    (State.slotWrite k v s).slot j = s.slot j := by cases k <;> cases j <;> simp_all [State.slot, State.slotWrite]
theorem setBtn_btn_other {j k : Slot} (h : j ≠ k) (b : ButtonState) (s : State) :
    (State.setBtn k b s).btn j = s.btn j := by cases k <;> cases j <;> simp_all [State.btn, State.setBtn]

end Sys2Proof.Machine
end

