-- ==== Sys2Proof/Laws/Frames.lean ====
section
/-! SUPPORT. The frame of every shared operation that has cases: one lemma each, which lists the
fields of `State` the operation leaves alone. Each is a conjunction tagged `simp`, so that `simp`
has one rewrite per field. -/

namespace Sys2Proof.Machine

@[simp] theorem retarget_keeps (t : Word) (s : State) :
    (retarget t s).params = s.params ∧ (retarget t s).currentSpeed = s.currentSpeed ∧
    (retarget t s).direction = s.direction ∧ (retarget t s).position = s.position ∧ (retarget
    t s).motionStartTime = s.motionStartTime ∧ (retarget t s).nextStepDeadline =
    s.nextStepDeadline ∧ (retarget t s).btnHome = s.btnHome ∧ (retarget t s).btnWell =
    s.btnWell ∧ (retarget t s).slotHome = s.slotHome ∧ (retarget t s).slotWell = s.slotWell ∧
    (retarget t s).remoteJogLeft = s.remoteJogLeft ∧ (retarget t s).remoteJogRight =
    s.remoteJogRight ∧ (retarget t s).vJogMax = s.vJogMax ∧ (retarget t s).vMoveMax =
    s.vMoveMax ∧ (retarget t s).lastTickTime = s.lastTickTime ∧ (retarget t s).enabled =
    s.enabled ∧ (retarget t s).settleStart = s.settleStart ∧ (retarget t s).prevDemand =
    s.prevDemand ∧ (retarget t s).brakeStart = s.brakeStart ∧ (retarget t s).brakeHold =
    s.brakeHold ∧ (retarget t s).dirOut = s.dirOut ∧ (retarget t s).stepOut = s.stepOut ∧
    (retarget t s).trace = s.trace ∧ (retarget t s).now = s.now ∧ (retarget t s).estopSeen =
    s.estopSeen ∧ (retarget t s).rxPartial = s.rxPartial ∧ (retarget t s).lineQueue =
    s.lineQueue ∧ (retarget t s).script = s.script ∧ (retarget t s).drawCount = s.drawCount := by
  unfold retarget
  dsimp only
  split
  · simp
  · split <;> simp

@[simp] theorem moveRequest_keeps (t : Word) (s : State) :
    (moveRequest t s).params = s.params ∧ (moveRequest t s).position = s.position ∧
    (moveRequest t s).btnHome = s.btnHome ∧ (moveRequest t s).btnWell = s.btnWell ∧
    (moveRequest t s).slotHome = s.slotHome ∧ (moveRequest t s).slotWell = s.slotWell ∧
    (moveRequest t s).remoteJogLeft = s.remoteJogLeft ∧ (moveRequest t s).remoteJogRight =
    s.remoteJogRight ∧ (moveRequest t s).vJogMax = s.vJogMax ∧ (moveRequest t s).vMoveMax =
    s.vMoveMax ∧ (moveRequest t s).lastTickTime = s.lastTickTime ∧ (moveRequest t s).enabled =
    s.enabled ∧ (moveRequest t s).settleStart = s.settleStart ∧ (moveRequest t s).prevDemand =
    s.prevDemand ∧ (moveRequest t s).brakeStart = s.brakeStart ∧ (moveRequest t s).brakeHold =
    s.brakeHold ∧ (moveRequest t s).dirOut = s.dirOut ∧ (moveRequest t s).stepOut = s.stepOut
    ∧ (moveRequest t s).trace = s.trace ∧ (moveRequest t s).now = s.now ∧ (moveRequest t
    s).estopSeen = s.estopSeen ∧ (moveRequest t s).rxPartial = s.rxPartial ∧ (moveRequest t
    s).lineQueue = s.lineQueue ∧ (moveRequest t s).script = s.script ∧ (moveRequest t
    s).drawCount = s.drawCount := by
  unfold moveRequest
  split
  · split <;> simp
  · split <;> simp
  · simp

@[simp] theorem requestIf_keeps (t : Option Word) (s : State) :
    (requestIf t s).params = s.params ∧ (requestIf t s).position = s.position ∧ (requestIf t
    s).btnHome = s.btnHome ∧ (requestIf t s).btnWell = s.btnWell ∧ (requestIf t s).slotHome =
    s.slotHome ∧ (requestIf t s).slotWell = s.slotWell ∧ (requestIf t s).remoteJogLeft =
    s.remoteJogLeft ∧ (requestIf t s).remoteJogRight = s.remoteJogRight ∧ (requestIf t
    s).vJogMax = s.vJogMax ∧ (requestIf t s).vMoveMax = s.vMoveMax ∧ (requestIf t
    s).lastTickTime = s.lastTickTime ∧ (requestIf t s).enabled = s.enabled ∧ (requestIf t
    s).settleStart = s.settleStart ∧ (requestIf t s).prevDemand = s.prevDemand ∧ (requestIf t
    s).brakeStart = s.brakeStart ∧ (requestIf t s).brakeHold = s.brakeHold ∧ (requestIf t
    s).dirOut = s.dirOut ∧ (requestIf t s).stepOut = s.stepOut ∧ (requestIf t s).trace =
    s.trace ∧ (requestIf t s).now = s.now ∧ (requestIf t s).estopSeen = s.estopSeen ∧
    (requestIf t s).rxPartial = s.rxPartial ∧ (requestIf t s).lineQueue = s.lineQueue ∧
    (requestIf t s).script = s.script ∧ (requestIf t s).drawCount = s.drawCount := by
  cases t <;> simp [requestIf]

@[simp] theorem recallSlot_keeps (k : Slot) (s : State) :
    (recallSlot k s).params = s.params ∧ (recallSlot k s).position = s.position ∧ (recallSlot
    k s).btnHome = s.btnHome ∧ (recallSlot k s).btnWell = s.btnWell ∧ (recallSlot k
    s).slotHome = s.slotHome ∧ (recallSlot k s).slotWell = s.slotWell ∧ (recallSlot k
    s).remoteJogLeft = s.remoteJogLeft ∧ (recallSlot k s).remoteJogRight = s.remoteJogRight ∧
    (recallSlot k s).vJogMax = s.vJogMax ∧ (recallSlot k s).vMoveMax = s.vMoveMax ∧
    (recallSlot k s).lastTickTime = s.lastTickTime ∧ (recallSlot k s).enabled = s.enabled ∧
    (recallSlot k s).settleStart = s.settleStart ∧ (recallSlot k s).prevDemand = s.prevDemand
    ∧ (recallSlot k s).brakeStart = s.brakeStart ∧ (recallSlot k s).brakeHold = s.brakeHold ∧
    (recallSlot k s).dirOut = s.dirOut ∧ (recallSlot k s).stepOut = s.stepOut ∧ (recallSlot k
    s).trace = s.trace ∧ (recallSlot k s).now = s.now ∧ (recallSlot k s).estopSeen =
    s.estopSeen ∧ (recallSlot k s).rxPartial = s.rxPartial ∧ (recallSlot k s).lineQueue =
    s.lineQueue ∧ (recallSlot k s).script = s.script ∧ (recallSlot k s).drawCount =
    s.drawCount := by
  unfold recallSlot
  split <;> simp

@[simp] theorem saveSlot_keeps (k : Slot) (s : State) :
    (saveSlot k s).params = s.params ∧ (saveSlot k s).mode = s.mode ∧ (saveSlot k s).reversing
    = s.reversing ∧ (saveSlot k s).currentSpeed = s.currentSpeed ∧ (saveSlot k s).direction =
    s.direction ∧ (saveSlot k s).position = s.position ∧ (saveSlot k s).target = s.target ∧
    (saveSlot k s).commandedTarget = s.commandedTarget ∧ (saveSlot k s).pendingDirection =
    s.pendingDirection ∧ (saveSlot k s).motionStartTime = s.motionStartTime ∧ (saveSlot k
    s).nextStepDeadline = s.nextStepDeadline ∧ (saveSlot k s).btnHome = s.btnHome ∧ (saveSlot
    k s).btnWell = s.btnWell ∧ (saveSlot k s).remoteJogLeft = s.remoteJogLeft ∧ (saveSlot k
    s).remoteJogRight = s.remoteJogRight ∧ (saveSlot k s).vJogMax = s.vJogMax ∧ (saveSlot k
    s).vMoveMax = s.vMoveMax ∧ (saveSlot k s).lastTickTime = s.lastTickTime ∧ (saveSlot k
    s).enabled = s.enabled ∧ (saveSlot k s).settleStart = s.settleStart ∧ (saveSlot k
    s).prevDemand = s.prevDemand ∧ (saveSlot k s).brakeStart = s.brakeStart ∧ (saveSlot k
    s).brakeHold = s.brakeHold ∧ (saveSlot k s).dirOut = s.dirOut ∧ (saveSlot k s).stepOut =
    s.stepOut ∧ (saveSlot k s).trace = s.trace ∧ (saveSlot k s).now = s.now ∧ (saveSlot k
    s).estopSeen = s.estopSeen ∧ (saveSlot k s).rxPartial = s.rxPartial ∧ (saveSlot k
    s).lineQueue = s.lineQueue ∧ (saveSlot k s).script = s.script ∧ (saveSlot k s).drawCount =
    s.drawCount := by
  simp [saveSlot]

@[simp] theorem enableDrive_keeps (s : State) :
    (enableDrive s).params = s.params ∧ (enableDrive s).mode = s.mode ∧ (enableDrive
    s).reversing = s.reversing ∧ (enableDrive s).currentSpeed = s.currentSpeed ∧ (enableDrive
    s).direction = s.direction ∧ (enableDrive s).position = s.position ∧ (enableDrive
    s).target = s.target ∧ (enableDrive s).commandedTarget = s.commandedTarget ∧ (enableDrive
    s).pendingDirection = s.pendingDirection ∧ (enableDrive s).motionStartTime =
    s.motionStartTime ∧ (enableDrive s).nextStepDeadline = s.nextStepDeadline ∧ (enableDrive
    s).btnHome = s.btnHome ∧ (enableDrive s).btnWell = s.btnWell ∧ (enableDrive s).slotHome =
    s.slotHome ∧ (enableDrive s).slotWell = s.slotWell ∧ (enableDrive s).remoteJogLeft =
    s.remoteJogLeft ∧ (enableDrive s).remoteJogRight = s.remoteJogRight ∧ (enableDrive
    s).vJogMax = s.vJogMax ∧ (enableDrive s).vMoveMax = s.vMoveMax ∧ (enableDrive
    s).lastTickTime = s.lastTickTime ∧ (enableDrive s).prevDemand = s.prevDemand ∧
    (enableDrive s).brakeStart = s.brakeStart ∧ (enableDrive s).brakeHold = s.brakeHold ∧
    (enableDrive s).dirOut = s.dirOut ∧ (enableDrive s).stepOut = s.stepOut ∧ (enableDrive
    s).trace = s.trace ∧ (enableDrive s).now = s.now ∧ (enableDrive s).estopSeen = s.estopSeen
    ∧ (enableDrive s).rxPartial = s.rxPartial ∧ (enableDrive s).lineQueue = s.lineQueue ∧
    (enableDrive s).script = s.script ∧ (enableDrive s).drawCount = s.drawCount := by
  unfold enableDrive
  split <;> simp

@[simp] theorem applyRelease_keeps (k : Slot) (ev : Option Release) (s : State) :
    (applyRelease k ev s).params = s.params ∧ (applyRelease k ev s).position = s.position ∧
    (applyRelease k ev s).btnHome = s.btnHome ∧ (applyRelease k ev s).btnWell = s.btnWell ∧
    (applyRelease k ev s).remoteJogLeft = s.remoteJogLeft ∧ (applyRelease k ev
    s).remoteJogRight = s.remoteJogRight ∧ (applyRelease k ev s).vJogMax = s.vJogMax ∧
    (applyRelease k ev s).vMoveMax = s.vMoveMax ∧ (applyRelease k ev s).lastTickTime =
    s.lastTickTime ∧ (applyRelease k ev s).enabled = s.enabled ∧ (applyRelease k ev
    s).settleStart = s.settleStart ∧ (applyRelease k ev s).prevDemand = s.prevDemand ∧
    (applyRelease k ev s).brakeStart = s.brakeStart ∧ (applyRelease k ev s).brakeHold =
    s.brakeHold ∧ (applyRelease k ev s).dirOut = s.dirOut ∧ (applyRelease k ev s).stepOut =
    s.stepOut ∧ (applyRelease k ev s).trace = s.trace ∧ (applyRelease k ev s).now = s.now ∧
    (applyRelease k ev s).estopSeen = s.estopSeen ∧ (applyRelease k ev s).rxPartial =
    s.rxPartial ∧ (applyRelease k ev s).lineQueue = s.lineQueue ∧ (applyRelease k ev s).script
    = s.script ∧ (applyRelease k ev s).drawCount = s.drawCount := by
  unfold applyRelease
  split <;> simp

@[simp] theorem serveButton_keeps (k : Slot) (sample : Bool) (s : State) :
    (serveButton k sample s).params = s.params ∧ (serveButton k sample s).position =
    s.position ∧ (serveButton k sample s).remoteJogLeft = s.remoteJogLeft ∧ (serveButton k
    sample s).remoteJogRight = s.remoteJogRight ∧ (serveButton k sample s).vJogMax = s.vJogMax
    ∧ (serveButton k sample s).vMoveMax = s.vMoveMax ∧ (serveButton k sample s).lastTickTime =
    s.lastTickTime ∧ (serveButton k sample s).enabled = s.enabled ∧ (serveButton k sample
    s).settleStart = s.settleStart ∧ (serveButton k sample s).prevDemand = s.prevDemand ∧
    (serveButton k sample s).brakeStart = s.brakeStart ∧ (serveButton k sample s).brakeHold =
    s.brakeHold ∧ (serveButton k sample s).dirOut = s.dirOut ∧ (serveButton k sample
    s).stepOut = s.stepOut ∧ (serveButton k sample s).trace = s.trace ∧ (serveButton k sample
    s).now = s.now ∧ (serveButton k sample s).estopSeen = s.estopSeen ∧ (serveButton k sample
    s).rxPartial = s.rxPartial ∧ (serveButton k sample s).lineQueue = s.lineQueue ∧
    (serveButton k sample s).script = s.script ∧ (serveButton k sample s).drawCount =
    s.drawCount := by
  simp [serveButton]

@[simp] theorem arbiter_keeps (inp : Levels) (s : State) :
    (arbiter inp s).params = s.params ∧ (arbiter inp s).position = s.position ∧ (arbiter inp
    s).remoteJogLeft = s.remoteJogLeft ∧ (arbiter inp s).remoteJogRight = s.remoteJogRight ∧
    (arbiter inp s).vJogMax = s.vJogMax ∧ (arbiter inp s).vMoveMax = s.vMoveMax ∧ (arbiter inp
    s).lastTickTime = s.lastTickTime ∧ (arbiter inp s).enabled = s.enabled ∧ (arbiter inp
    s).settleStart = s.settleStart ∧ (arbiter inp s).prevDemand = s.prevDemand ∧ (arbiter inp
    s).brakeStart = s.brakeStart ∧ (arbiter inp s).brakeHold = s.brakeHold ∧ (arbiter inp
    s).dirOut = s.dirOut ∧ (arbiter inp s).stepOut = s.stepOut ∧ (arbiter inp s).trace =
    s.trace ∧ (arbiter inp s).now = s.now ∧ (arbiter inp s).estopSeen = s.estopSeen ∧ (arbiter
    inp s).rxPartial = s.rxPartial ∧ (arbiter inp s).lineQueue = s.lineQueue ∧ (arbiter inp
    s).script = s.script ∧ (arbiter inp s).drawCount = s.drawCount := by
  simp [arbiter]

@[simp] theorem startBrake_keeps (s : State) :
    (startBrake s).params = s.params ∧ (startBrake s).mode = s.mode ∧ (startBrake s).reversing
    = s.reversing ∧ (startBrake s).currentSpeed = s.currentSpeed ∧ (startBrake s).direction =
    s.direction ∧ (startBrake s).position = s.position ∧ (startBrake s).target = s.target ∧
    (startBrake s).commandedTarget = s.commandedTarget ∧ (startBrake s).pendingDirection =
    s.pendingDirection ∧ (startBrake s).motionStartTime = s.motionStartTime ∧ (startBrake
    s).nextStepDeadline = s.nextStepDeadline ∧ (startBrake s).btnHome = s.btnHome ∧
    (startBrake s).btnWell = s.btnWell ∧ (startBrake s).slotHome = s.slotHome ∧ (startBrake
    s).slotWell = s.slotWell ∧ (startBrake s).remoteJogLeft = s.remoteJogLeft ∧ (startBrake
    s).remoteJogRight = s.remoteJogRight ∧ (startBrake s).vJogMax = s.vJogMax ∧ (startBrake
    s).vMoveMax = s.vMoveMax ∧ (startBrake s).lastTickTime = s.lastTickTime ∧ (startBrake
    s).enabled = s.enabled ∧ (startBrake s).settleStart = s.settleStart ∧ (startBrake
    s).prevDemand = s.prevDemand ∧ (startBrake s).dirOut = s.dirOut ∧ (startBrake s).stepOut =
    s.stepOut ∧ (startBrake s).trace = s.trace ∧ (startBrake s).now = s.now ∧ (startBrake
    s).estopSeen = s.estopSeen ∧ (startBrake s).rxPartial = s.rxPartial ∧ (startBrake
    s).lineQueue = s.lineQueue ∧ (startBrake s).script = s.script ∧ (startBrake s).drawCount =
    s.drawCount := by
  unfold startBrake
  split <;> simp

@[simp] theorem enterJog_keeps (s : State) :
    (enterJog s).params = s.params ∧ (enterJog s).direction = s.direction ∧ (enterJog
    s).position = s.position ∧ (enterJog s).commandedTarget = s.commandedTarget ∧ (enterJog
    s).pendingDirection = s.pendingDirection ∧ (enterJog s).btnHome = s.btnHome ∧ (enterJog
    s).btnWell = s.btnWell ∧ (enterJog s).slotHome = s.slotHome ∧ (enterJog s).slotWell =
    s.slotWell ∧ (enterJog s).remoteJogLeft = s.remoteJogLeft ∧ (enterJog s).remoteJogRight =
    s.remoteJogRight ∧ (enterJog s).vJogMax = s.vJogMax ∧ (enterJog s).vMoveMax = s.vMoveMax ∧
    (enterJog s).lastTickTime = s.lastTickTime ∧ (enterJog s).enabled = s.enabled ∧ (enterJog
    s).settleStart = s.settleStart ∧ (enterJog s).prevDemand = s.prevDemand ∧ (enterJog
    s).brakeStart = s.brakeStart ∧ (enterJog s).brakeHold = s.brakeHold ∧ (enterJog s).dirOut
    = s.dirOut ∧ (enterJog s).stepOut = s.stepOut ∧ (enterJog s).trace = s.trace ∧ (enterJog
    s).now = s.now ∧ (enterJog s).estopSeen = s.estopSeen ∧ (enterJog s).rxPartial =
    s.rxPartial ∧ (enterJog s).lineQueue = s.lineQueue ∧ (enterJog s).script = s.script ∧
    (enterJog s).drawCount = s.drawCount := by
  unfold enterJog
  split <;> simp

@[simp] theorem releaseJog_keeps (s : State) :
    (releaseJog s).params = s.params ∧ (releaseJog s).reversing = s.reversing ∧ (releaseJog
    s).currentSpeed = s.currentSpeed ∧ (releaseJog s).direction = s.direction ∧ (releaseJog
    s).position = s.position ∧ (releaseJog s).target = s.target ∧ (releaseJog
    s).commandedTarget = s.commandedTarget ∧ (releaseJog s).pendingDirection =
    s.pendingDirection ∧ (releaseJog s).motionStartTime = s.motionStartTime ∧ (releaseJog
    s).nextStepDeadline = s.nextStepDeadline ∧ (releaseJog s).btnHome = s.btnHome ∧
    (releaseJog s).btnWell = s.btnWell ∧ (releaseJog s).slotHome = s.slotHome ∧ (releaseJog
    s).slotWell = s.slotWell ∧ (releaseJog s).remoteJogLeft = s.remoteJogLeft ∧ (releaseJog
    s).remoteJogRight = s.remoteJogRight ∧ (releaseJog s).vJogMax = s.vJogMax ∧ (releaseJog
    s).vMoveMax = s.vMoveMax ∧ (releaseJog s).lastTickTime = s.lastTickTime ∧ (releaseJog
    s).enabled = s.enabled ∧ (releaseJog s).settleStart = s.settleStart ∧ (releaseJog
    s).prevDemand = s.prevDemand ∧ (releaseJog s).brakeStart = s.brakeStart ∧ (releaseJog
    s).dirOut = s.dirOut ∧ (releaseJog s).stepOut = s.stepOut ∧ (releaseJog s).trace = s.trace
    ∧ (releaseJog s).now = s.now ∧ (releaseJog s).estopSeen = s.estopSeen ∧ (releaseJog
    s).rxPartial = s.rxPartial ∧ (releaseJog s).lineQueue = s.lineQueue ∧ (releaseJog
    s).script = s.script ∧ (releaseJog s).drawCount = s.drawCount := by
  unfold releaseJog
  split <;> simp

@[simp] theorem jogArbitrate_keeps (d : Demand) (s : State) :
    (jogArbitrate d s).params = s.params ∧ (jogArbitrate d s).position = s.position ∧
    (jogArbitrate d s).commandedTarget = s.commandedTarget ∧ (jogArbitrate d
    s).pendingDirection = s.pendingDirection ∧ (jogArbitrate d s).btnHome = s.btnHome ∧
    (jogArbitrate d s).btnWell = s.btnWell ∧ (jogArbitrate d s).slotHome = s.slotHome ∧
    (jogArbitrate d s).slotWell = s.slotWell ∧ (jogArbitrate d s).remoteJogLeft =
    s.remoteJogLeft ∧ (jogArbitrate d s).remoteJogRight = s.remoteJogRight ∧ (jogArbitrate d
    s).vJogMax = s.vJogMax ∧ (jogArbitrate d s).vMoveMax = s.vMoveMax ∧ (jogArbitrate d
    s).lastTickTime = s.lastTickTime ∧ (jogArbitrate d s).enabled = s.enabled ∧ (jogArbitrate
    d s).settleStart = s.settleStart ∧ (jogArbitrate d s).dirOut = s.dirOut ∧ (jogArbitrate d
    s).stepOut = s.stepOut ∧ (jogArbitrate d s).trace = s.trace ∧ (jogArbitrate d s).now =
    s.now ∧ (jogArbitrate d s).estopSeen = s.estopSeen ∧ (jogArbitrate d s).rxPartial =
    s.rxPartial ∧ (jogArbitrate d s).lineQueue = s.lineQueue ∧ (jogArbitrate d s).script =
    s.script ∧ (jogArbitrate d s).drawCount = s.drawCount := by
  unfold jogArbitrate
  split <;> simp

@[simp] theorem flipAtFloor_keeps (s : State) :
    (flipAtFloor s).params = s.params ∧ (flipAtFloor s).mode = s.mode ∧ (flipAtFloor
    s).currentSpeed = s.currentSpeed ∧ (flipAtFloor s).position = s.position ∧ (flipAtFloor
    s).target = s.target ∧ (flipAtFloor s).commandedTarget = s.commandedTarget ∧ (flipAtFloor
    s).pendingDirection = s.pendingDirection ∧ (flipAtFloor s).motionStartTime =
    s.motionStartTime ∧ (flipAtFloor s).btnHome = s.btnHome ∧ (flipAtFloor s).btnWell =
    s.btnWell ∧ (flipAtFloor s).slotHome = s.slotHome ∧ (flipAtFloor s).slotWell = s.slotWell
    ∧ (flipAtFloor s).remoteJogLeft = s.remoteJogLeft ∧ (flipAtFloor s).remoteJogRight =
    s.remoteJogRight ∧ (flipAtFloor s).vJogMax = s.vJogMax ∧ (flipAtFloor s).vMoveMax =
    s.vMoveMax ∧ (flipAtFloor s).lastTickTime = s.lastTickTime ∧ (flipAtFloor s).enabled =
    s.enabled ∧ (flipAtFloor s).settleStart = s.settleStart ∧ (flipAtFloor s).prevDemand =
    s.prevDemand ∧ (flipAtFloor s).brakeStart = s.brakeStart ∧ (flipAtFloor s).brakeHold =
    s.brakeHold ∧ (flipAtFloor s).dirOut = s.dirOut ∧ (flipAtFloor s).stepOut = s.stepOut ∧
    (flipAtFloor s).trace = s.trace ∧ (flipAtFloor s).now = s.now ∧ (flipAtFloor s).estopSeen
    = s.estopSeen ∧ (flipAtFloor s).rxPartial = s.rxPartial ∧ (flipAtFloor s).lineQueue =
    s.lineQueue ∧ (flipAtFloor s).script = s.script ∧ (flipAtFloor s).drawCount = s.drawCount := by
  unfold flipAtFloor
  split <;> simp

@[simp] theorem profile_keeps (dt : Nat) (s : State) :
    (profile dt s).params = s.params ∧ (profile dt s).mode = s.mode ∧ (profile dt s).position
    = s.position ∧ (profile dt s).target = s.target ∧ (profile dt s).commandedTarget =
    s.commandedTarget ∧ (profile dt s).pendingDirection = s.pendingDirection ∧ (profile dt
    s).motionStartTime = s.motionStartTime ∧ (profile dt s).btnHome = s.btnHome ∧ (profile dt
    s).btnWell = s.btnWell ∧ (profile dt s).slotHome = s.slotHome ∧ (profile dt s).slotWell =
    s.slotWell ∧ (profile dt s).remoteJogLeft = s.remoteJogLeft ∧ (profile dt
    s).remoteJogRight = s.remoteJogRight ∧ (profile dt s).vJogMax = s.vJogMax ∧ (profile dt
    s).vMoveMax = s.vMoveMax ∧ (profile dt s).lastTickTime = s.lastTickTime ∧ (profile dt
    s).enabled = s.enabled ∧ (profile dt s).settleStart = s.settleStart ∧ (profile dt
    s).prevDemand = s.prevDemand ∧ (profile dt s).brakeStart = s.brakeStart ∧ (profile dt
    s).brakeHold = s.brakeHold ∧ (profile dt s).dirOut = s.dirOut ∧ (profile dt s).stepOut =
    s.stepOut ∧ (profile dt s).trace = s.trace ∧ (profile dt s).now = s.now ∧ (profile dt
    s).estopSeen = s.estopSeen ∧ (profile dt s).rxPartial = s.rxPartial ∧ (profile dt
    s).lineQueue = s.lineQueue ∧ (profile dt s).script = s.script ∧ (profile dt s).drawCount =
    s.drawCount := by
  unfold profile
  split
  · simp
  · split <;> simp
  · split
    · simp
    · split <;> simp

@[simp] theorem dropBacklog_keeps (iv : Nat) (s : State) :
    (dropBacklog iv s).params = s.params ∧ (dropBacklog iv s).mode = s.mode ∧ (dropBacklog iv
    s).reversing = s.reversing ∧ (dropBacklog iv s).currentSpeed = s.currentSpeed ∧
    (dropBacklog iv s).direction = s.direction ∧ (dropBacklog iv s).position = s.position ∧
    (dropBacklog iv s).target = s.target ∧ (dropBacklog iv s).commandedTarget =
    s.commandedTarget ∧ (dropBacklog iv s).pendingDirection = s.pendingDirection ∧
    (dropBacklog iv s).motionStartTime = s.motionStartTime ∧ (dropBacklog iv s).btnHome =
    s.btnHome ∧ (dropBacklog iv s).btnWell = s.btnWell ∧ (dropBacklog iv s).slotHome =
    s.slotHome ∧ (dropBacklog iv s).slotWell = s.slotWell ∧ (dropBacklog iv s).remoteJogLeft =
    s.remoteJogLeft ∧ (dropBacklog iv s).remoteJogRight = s.remoteJogRight ∧ (dropBacklog iv
    s).vJogMax = s.vJogMax ∧ (dropBacklog iv s).vMoveMax = s.vMoveMax ∧ (dropBacklog iv
    s).lastTickTime = s.lastTickTime ∧ (dropBacklog iv s).enabled = s.enabled ∧ (dropBacklog
    iv s).settleStart = s.settleStart ∧ (dropBacklog iv s).prevDemand = s.prevDemand ∧
    (dropBacklog iv s).brakeStart = s.brakeStart ∧ (dropBacklog iv s).brakeHold = s.brakeHold
    ∧ (dropBacklog iv s).dirOut = s.dirOut ∧ (dropBacklog iv s).stepOut = s.stepOut ∧
    (dropBacklog iv s).trace = s.trace ∧ (dropBacklog iv s).now = s.now ∧ (dropBacklog iv
    s).estopSeen = s.estopSeen ∧ (dropBacklog iv s).rxPartial = s.rxPartial ∧ (dropBacklog iv
    s).lineQueue = s.lineQueue ∧ (dropBacklog iv s).script = s.script ∧ (dropBacklog iv
    s).drawCount = s.drawCount := by
  unfold dropBacklog
  split <;> simp

@[simp] theorem releaseBrake_keeps (s : State) :
    (releaseBrake s).params = s.params ∧ (releaseBrake s).mode = s.mode ∧ (releaseBrake
    s).reversing = s.reversing ∧ (releaseBrake s).currentSpeed = s.currentSpeed ∧
    (releaseBrake s).direction = s.direction ∧ (releaseBrake s).position = s.position ∧
    (releaseBrake s).target = s.target ∧ (releaseBrake s).commandedTarget = s.commandedTarget
    ∧ (releaseBrake s).pendingDirection = s.pendingDirection ∧ (releaseBrake s).btnHome =
    s.btnHome ∧ (releaseBrake s).btnWell = s.btnWell ∧ (releaseBrake s).slotHome = s.slotHome
    ∧ (releaseBrake s).slotWell = s.slotWell ∧ (releaseBrake s).remoteJogLeft =
    s.remoteJogLeft ∧ (releaseBrake s).remoteJogRight = s.remoteJogRight ∧ (releaseBrake
    s).vJogMax = s.vJogMax ∧ (releaseBrake s).vMoveMax = s.vMoveMax ∧ (releaseBrake
    s).lastTickTime = s.lastTickTime ∧ (releaseBrake s).enabled = s.enabled ∧ (releaseBrake
    s).settleStart = s.settleStart ∧ (releaseBrake s).prevDemand = s.prevDemand ∧
    (releaseBrake s).brakeStart = s.brakeStart ∧ (releaseBrake s).dirOut = s.dirOut ∧
    (releaseBrake s).stepOut = s.stepOut ∧ (releaseBrake s).trace = s.trace ∧ (releaseBrake
    s).now = s.now ∧ (releaseBrake s).estopSeen = s.estopSeen ∧ (releaseBrake s).rxPartial =
    s.rxPartial ∧ (releaseBrake s).lineQueue = s.lineQueue ∧ (releaseBrake s).script =
    s.script ∧ (releaseBrake s).drawCount = s.drawCount := by
  unfold releaseBrake
  split <;> simp

@[simp] theorem pulseLoop_keeps (iv n : Nat) (s : State) :
    (pulseLoop iv n s).params = s.params ∧ (pulseLoop iv n s).reversing = s.reversing ∧
    (pulseLoop iv n s).currentSpeed = s.currentSpeed ∧ (pulseLoop iv n s).direction =
    s.direction ∧ (pulseLoop iv n s).target = s.target ∧ (pulseLoop iv n s).commandedTarget =
    s.commandedTarget ∧ (pulseLoop iv n s).pendingDirection = s.pendingDirection ∧ (pulseLoop
    iv n s).motionStartTime = s.motionStartTime ∧ (pulseLoop iv n s).btnHome = s.btnHome ∧
    (pulseLoop iv n s).btnWell = s.btnWell ∧ (pulseLoop iv n s).slotHome = s.slotHome ∧
    (pulseLoop iv n s).slotWell = s.slotWell ∧ (pulseLoop iv n s).remoteJogLeft =
    s.remoteJogLeft ∧ (pulseLoop iv n s).remoteJogRight = s.remoteJogRight ∧ (pulseLoop iv n
    s).vJogMax = s.vJogMax ∧ (pulseLoop iv n s).vMoveMax = s.vMoveMax ∧ (pulseLoop iv n
    s).lastTickTime = s.lastTickTime ∧ (pulseLoop iv n s).enabled = s.enabled ∧ (pulseLoop iv
    n s).settleStart = s.settleStart ∧ (pulseLoop iv n s).prevDemand = s.prevDemand ∧
    (pulseLoop iv n s).brakeStart = s.brakeStart ∧ (pulseLoop iv n s).brakeHold = s.brakeHold
    ∧ (pulseLoop iv n s).now = s.now ∧ (pulseLoop iv n s).estopSeen = s.estopSeen ∧ (pulseLoop
    iv n s).rxPartial = s.rxPartial ∧ (pulseLoop iv n s).lineQueue = s.lineQueue ∧ (pulseLoop
    iv n s).script = s.script ∧ (pulseLoop iv n s).drawCount = s.drawCount := by
  induction n generalizing s with
  | zero => simp [pulseLoop]
  | succ n ih =>
    unfold pulseLoop
    split
    · split <;> simp [ih]
    · simp

@[simp] theorem emitRunning_keeps (s : State) :
    (emitRunning s).params = s.params ∧ (emitRunning s).reversing = s.reversing ∧ (emitRunning
    s).currentSpeed = s.currentSpeed ∧ (emitRunning s).direction = s.direction ∧ (emitRunning
    s).target = s.target ∧ (emitRunning s).commandedTarget = s.commandedTarget ∧ (emitRunning
    s).pendingDirection = s.pendingDirection ∧ (emitRunning s).motionStartTime =
    s.motionStartTime ∧ (emitRunning s).btnHome = s.btnHome ∧ (emitRunning s).btnWell =
    s.btnWell ∧ (emitRunning s).slotHome = s.slotHome ∧ (emitRunning s).slotWell = s.slotWell
    ∧ (emitRunning s).remoteJogLeft = s.remoteJogLeft ∧ (emitRunning s).remoteJogRight =
    s.remoteJogRight ∧ (emitRunning s).vJogMax = s.vJogMax ∧ (emitRunning s).vMoveMax =
    s.vMoveMax ∧ (emitRunning s).lastTickTime = s.lastTickTime ∧ (emitRunning s).enabled =
    s.enabled ∧ (emitRunning s).settleStart = s.settleStart ∧ (emitRunning s).prevDemand =
    s.prevDemand ∧ (emitRunning s).brakeStart = s.brakeStart ∧ (emitRunning s).brakeHold =
    s.brakeHold ∧ (emitRunning s).now = s.now ∧ (emitRunning s).estopSeen = s.estopSeen ∧
    (emitRunning s).rxPartial = s.rxPartial ∧ (emitRunning s).lineQueue = s.lineQueue ∧
    (emitRunning s).script = s.script ∧ (emitRunning s).drawCount = s.drawCount := by
  unfold emitRunning
  split <;> simp

@[simp] theorem emit_keeps (s : State) :
    (emit s).params = s.params ∧ (emit s).reversing = s.reversing ∧ (emit s).currentSpeed =
    s.currentSpeed ∧ (emit s).direction = s.direction ∧ (emit s).target = s.target ∧ (emit
    s).commandedTarget = s.commandedTarget ∧ (emit s).pendingDirection = s.pendingDirection ∧
    (emit s).btnHome = s.btnHome ∧ (emit s).btnWell = s.btnWell ∧ (emit s).slotHome =
    s.slotHome ∧ (emit s).slotWell = s.slotWell ∧ (emit s).remoteJogLeft = s.remoteJogLeft ∧
    (emit s).remoteJogRight = s.remoteJogRight ∧ (emit s).vJogMax = s.vJogMax ∧ (emit
    s).vMoveMax = s.vMoveMax ∧ (emit s).lastTickTime = s.lastTickTime ∧ (emit s).enabled =
    s.enabled ∧ (emit s).settleStart = s.settleStart ∧ (emit s).prevDemand = s.prevDemand ∧
    (emit s).brakeStart = s.brakeStart ∧ (emit s).now = s.now ∧ (emit s).estopSeen =
    s.estopSeen ∧ (emit s).rxPartial = s.rxPartial ∧ (emit s).lineQueue = s.lineQueue ∧ (emit
    s).script = s.script ∧ (emit s).drawCount = s.drawCount := by
  unfold emit
  split
  · simp
  · split <;> simp

@[simp] theorem motionPhases_keeps (inp : Levels) (dt : Nat) (s : State) :
    (motionPhases inp dt s).params = s.params ∧ (motionPhases inp dt s).commandedTarget =
    s.commandedTarget ∧ (motionPhases inp dt s).pendingDirection = s.pendingDirection ∧
    (motionPhases inp dt s).btnHome = s.btnHome ∧ (motionPhases inp dt s).btnWell = s.btnWell
    ∧ (motionPhases inp dt s).slotHome = s.slotHome ∧ (motionPhases inp dt s).slotWell =
    s.slotWell ∧ (motionPhases inp dt s).remoteJogLeft = s.remoteJogLeft ∧ (motionPhases inp
    dt s).remoteJogRight = s.remoteJogRight ∧ (motionPhases inp dt s).vJogMax = s.vJogMax ∧
    (motionPhases inp dt s).vMoveMax = s.vMoveMax ∧ (motionPhases inp dt s).lastTickTime =
    s.lastTickTime ∧ (motionPhases inp dt s).enabled = s.enabled ∧ (motionPhases inp dt
    s).settleStart = s.settleStart ∧ (motionPhases inp dt s).now = s.now ∧ (motionPhases inp
    dt s).estopSeen = s.estopSeen ∧ (motionPhases inp dt s).rxPartial = s.rxPartial ∧
    (motionPhases inp dt s).lineQueue = s.lineQueue ∧ (motionPhases inp dt s).script =
    s.script ∧ (motionPhases inp dt s).drawCount = s.drawCount := by
  simp [motionPhases]

end Sys2Proof.Machine
end

