-- ==== Sys2Proof/Laws/Ops.lean ====
section
/-! SUPPORT. What each shared operation computes, said once: numbers and times, the parameters'
constraints, Move requests, the commands as a whole, the profile's arithmetic, the pulse loop. -/

namespace Sys2Proof.Machine

/-! ### Numbers and times -/

/-- "At least `d` has passed since `stored`", without subtraction (R250). -/
@[simp] theorem le_elapsed_iff (d : Nat) (now stored : Word) :
    (d : Int) ≤ elapsed now stored ↔ stored.toNat + d ≤ now.toNat := by
  unfold elapsed; omega

/-- "Less than `d` has passed since `stored`", without subtraction (R250). -/
@[simp] theorem elapsed_lt_iff (d : Nat) (now stored : Word) :
    elapsed now stored < (d : Int) ↔ now.toNat < stored.toNat + d := by
  unfold elapsed; omega

theorem toWord_toNat {n : Nat} (h : n < 2 ^ 64) : (toWord n).toNat = n := by
  simp only [toWord, BitVec.toNat_ofNat]; exact Nat.mod_eq_of_lt h

/-- A word below its own ceiling register always fits. -/
theorem toWord_min_toNat (w : Word) (n : Nat) : (toWord (min w.toNat n)).toNat = min w.toNat n :=
  toWord_toNat (by have := w.isLt; omega)

theorem toInt_sub_eq_zero {a b : Word} : a.toInt - b.toInt = 0 ↔ a = b := by
  rw [Int.sub_eq_zero, BitVec.toInt_inj]

/-- The direction of a delta that is not zero is the side the target lies on. -/
theorem dirOf_sub {t p : Word} (h : t ≠ p) :
    dirOf (t.toInt - p.toInt) = if p.toInt < t.toInt then .right else .left := by
  have : t.toInt ≠ p.toInt := fun e => h (BitVec.toInt_inj.mp e)
  unfold dirOf
  split <;> split <;> first | rfl | omega

/-- `wrap64` adds up: pulses one by one are the pulses together (R224). -/
theorem wrap64_add (x y : Int) : wrap64 ((wrap64 x).toInt + y) = wrap64 (x + y) := by
  apply BitVec.eq_of_toInt_eq
  simp [wrap64]

theorem wrap64_toInt (w : Word) : wrap64 w.toInt = w := by simp [wrap64]

/-! ### The constraints on the parameters -/

/-- R10 as a conjunction. -/
theorem legal_iff (p : Params) : p.legal = true ↔
    (1 ≤ p.vMinRun ∧ p.vMinRun ≤ p.vStart ∧ p.vStart ≤ p.vAcceptMin ∧
      p.vAcceptMin ≤ p.vAcceptMax ∧ p.vAcceptMax < 2 ^ 63 ∧
      p.vAcceptMin ≤ p.vJogDefault ∧ p.vJogDefault ≤ p.vAcceptMax ∧
      p.vAcceptMin ≤ p.vMoveDefault ∧ p.vMoveDefault ≤ p.vAcceptMax ∧
      1 ≤ p.aSoft ∧ p.aSoft ≤ p.aSteady ∧ p.aSteady < 2 ^ 32 ∧
      1 ≤ p.decel ∧ p.decel < 2 ^ 32 ∧
      1 ≤ p.nMaxPulses ∧ 1 ≤ p.minIntervalUs ∧
      p.pulseWidthUs + p.dirSetupUs < p.minIntervalUs ∧ 2 ≤ p.lineMax ∧
      p.debounceUs < 2 ^ 32 ∧ p.longPressUs < 2 ^ 32 ∧ p.softStartUs < 2 ^ 32 ∧
      p.settleUs < 2 ^ 32 ∧ p.brakeReleaseUs < 2 ^ 32 ∧ p.minIntervalUs < 2 ^ 32 ∧
      p.pulseWidthUs < 2 ^ 32 ∧ p.dirSetupUs < 2 ^ 32) := by
  simp [Params.legal]

/-- A start speed is stored exactly. -/
theorem startFromIdle_speed {s : State} (h : s.params.legal = true) :
    (startFromIdle s).currentSpeed.toNat = s.params.vStart := by
  have := (legal_iff s.params).1 h
  rw [startFromIdle_currentSpeed]; exact toWord_toNat (by omega)

/-! ### Move requests -/

/-- Everything a Move request can do (R178): the five cases, by what it leaves. -/
theorem moveRequest_cases (t : Word) (s : State) :
    (s.mode ≠ .move ∧ t = s.position ∧ moveRequest t s = s) ∨
    (s.mode = .idle ∧ t ≠ s.position ∧ moveRequest t s = startFromIdle (beginMove t s)) ∨
    (s.mode = .jog ∧ t ≠ s.position ∧ moveRequest t s = beginMove t s) ∨
    (s.mode = .move ∧ t = s.position ∧ moveRequest t s =
      { s with target := t, commandedTarget := t, reversing := false, mode := .idle }) ∨
    (s.mode = .move ∧ t ≠ s.position ∧ dirOf (t.toInt - s.position.toInt) = s.direction ∧
      moveRequest t s = { s with target := t, commandedTarget := t, reversing := false }) ∨
    (s.mode = .move ∧ t ≠ s.position ∧ dirOf (t.toInt - s.position.toInt) ≠ s.direction ∧
      moveRequest t s =
        { s with
          target := t
          commandedTarget := t
          reversing := true
          pendingDirection := dirOf (t.toInt - s.position.toInt) }) := by
  by_cases ht : t = s.position
  · cases hm : s.mode <;> simp [moveRequest, retarget, hm, ht]
  · cases hm : s.mode
    · simp [moveRequest, hm, toInt_sub_eq_zero, ht]
    · simp [moveRequest, hm, toInt_sub_eq_zero, ht]
    · by_cases hd : dirOf (t.toInt - s.position.toInt) = s.direction <;>
        simp [moveRequest, retarget, hm, toInt_sub_eq_zero, ht, hd]

/-- A property that every Move request keeps is kept by a recall (R165). -/
theorem recallSlot_of_moveRequest {P : State → Prop} {s : State} (k : Slot) (h0 : P s)
    (h : ∀ t, P (moveRequest t s)) : P (recallSlot k s) := by
  unfold recallSlot
  split
  · exact h _
  · exact h0

/-- A property that requests and saves keep is kept by a button's event (R131, R132). -/
theorem applyRelease_of_ops {P : State → Prop} {s : State} (k : Slot) (ev : Option Release)
    (h0 : P s) (hm : ∀ t, P (moveRequest t s)) (hs : P (saveSlot k s)) :
    P (applyRelease k ev s) := by
  unfold applyRelease
  split
  · exact h0
  · exact recallSlot_of_moveRequest k h0 hm
  · exact hs

/-! ### The commands as a whole -/

/-- Every command answers one of these states: a Move request, a save, a pair of remote flags, flags
and then a request onto the position, a ceiling of the accepted range, or nothing at all. -/
theorem exec_cases (i : Instr) (s : State) : ∃ t, exec i s = .next t ∧
    (t = s ∨ (∃ w, t = moveRequest w s) ∨ (∃ k, t = saveSlot k s) ∨
      (∃ l r, ¬ (l = true ∧ r = true) ∧ t = setRemoteJog l r s) ∨
      t = moveRequest s.position (setRemoteJog false false s) ∨
      (∃ v, s.params.vAcceptMin ≤ v ∧ v ≤ s.params.vAcceptMax ∧
        (t = { s with vJogMax := toWord v } ∨ t = { s with vMoveMax := toWord v }))) := by
  have hreq : ∀ o, requestIf o s = s ∨ ∃ w, requestIf o s = moveRequest w s := by
    intro o; cases o
    · exact .inl rfl
    · exact .inr ⟨_, rfl⟩
  have hrec : ∀ k, recallSlot k s = s ∨ ∃ w, recallSlot k s = moveRequest w s := by
    intro k; unfold recallSlot; split
    · exact .inr ⟨_, rfl⟩
    · exact .inl rfl
  cases i with
  | jl => exact ⟨_, rfl, .inr (.inr (.inr (.inl ⟨true, false, by decide, rfl⟩)))⟩
  | jr => exact ⟨_, rfl, .inr (.inr (.inr (.inl ⟨false, true, by decide, rfl⟩)))⟩
  | js => exact ⟨_, rfl, .inr (.inr (.inr (.inl ⟨false, false, by decide, rfl⟩)))⟩
  | st =>
    refine ⟨_, rfl, ?_⟩
    split
    · exact .inr (.inr (.inr (.inr (.inl rfl))))
    · exact .inr (.inr (.inr (.inl ⟨false, false, by decide, rfl⟩)))
  | gt v => exact ⟨_, rfl, (hreq _).imp id .inl⟩
  | mr v => exact ⟨_, rfl, (hreq _).imp id .inl⟩
  | gh => exact ⟨_, rfl, (hrec _).imp id .inl⟩
  | gw => exact ⟨_, rfl, (hrec _).imp id .inl⟩
  | sh => exact ⟨_, rfl, .inr (.inr (.inl ⟨.home, rfl⟩))⟩
  | sw => exact ⟨_, rfl, .inr (.inr (.inl ⟨.well, rfl⟩))⟩
  | vj v =>
    by_cases h : s.params.vAcceptMin ≤ v ∧ v ≤ s.params.vAcceptMax
    · exact ⟨_, by simp [exec, execVj, acceptedSpeed, h],
        .inr (.inr (.inr (.inr (.inr ⟨v, h.1, h.2, .inl rfl⟩))))⟩
    · exact ⟨s, by simp [exec, execVj, acceptedSpeed, h], .inl rfl⟩
  | vm v =>
    by_cases h : s.params.vAcceptMin ≤ v ∧ v ≤ s.params.vAcceptMax
    · exact ⟨_, by simp [exec, execVm, acceptedSpeed, h],
        .inr (.inr (.inr (.inr (.inr ⟨v, h.1, h.2, .inr rfl⟩))))⟩
    · exact ⟨s, by simp [exec, execVm, acceptedSpeed, h], .inl rfl⟩

/-- What no command writes, in one place. -/
theorem exec_keeps {i : Instr} {s t : State} (h : exec i s = .next t) :
    t.params = s.params ∧ t.position = s.position ∧ t.now = s.now ∧
      t.lastTickTime = s.lastTickTime ∧ t.enabled = s.enabled ∧ t.settleStart = s.settleStart ∧
      t.btnHome = s.btnHome ∧ t.btnWell = s.btnWell ∧ t.prevDemand = s.prevDemand ∧
      t.brakeStart = s.brakeStart ∧ t.brakeHold = s.brakeHold ∧ t.dirOut = s.dirOut ∧
      t.stepOut = s.stepOut ∧ t.trace = s.trace ∧ t.estopSeen = s.estopSeen ∧
      t.rxPartial = s.rxPartial ∧ t.lineQueue = s.lineQueue ∧ t.script = s.script ∧
      t.drawCount = s.drawCount := by
  obtain ⟨u, hu, hc⟩ := exec_cases i s
  rw [hu] at h
  obtain rfl : u = t := by simpa using h
  rcases hc with rfl | ⟨w, rfl⟩ | ⟨k, rfl⟩ | ⟨l, r, -, rfl⟩ | rfl | ⟨v, -, -, rfl | rfl⟩ <;> simp

/-- Phase 3 always completes (R120). -/
theorem runLines_total (ls : List Line) (s : State) : ∃ t, runLines ls s = .next t := by
  induction ls generalizing s with
  | nil => exact ⟨s, rfl⟩
  | cons l ls ih =>
    simp only [runLines]
    cases decodeLine s.params.lineMax l with
    | none => exact ih s
    | some i =>
      obtain ⟨t, ht, -⟩ := exec_cases i s
      simp only [ht, andThen]
      exact ih t

/-- Phase 3 packaged as an induction: a property that every command keeps is kept by the lines of
a tick. -/
theorem runLines_induct {P : State → Prop}
    (hstep : ∀ (i : Instr) (s t : State), P s → exec i s = .next t → P t) :
    ∀ (ls : List Line) (s t : State), P s → runLines ls s = .next t → P t
  | [], s, t, h, hr => by cases hr; exact h
  | l :: ls, s, t, h, hr => by
    simp only [runLines] at hr
    cases hd : decodeLine s.params.lineMax l with
    | none => rw [hd] at hr; exact runLines_induct hstep ls s t h hr
    | some i =>
      obtain ⟨u, hu, -⟩ := exec_cases i s
      simp only [hd, hu, andThen] at hr
      exact runLines_induct hstep ls u t (hstep i s u h hu) hr

/-! ### The profile's arithmetic -/

/-- The stopping-distance test of R200 without its division (R193). -/
theorem le_stopDist_succ_iff {p : Params} (hd : 1 ≤ p.decel) (r v : Nat) :
    r ≤ stopDist p v + 1 ↔ (r - 1) * (2 * p.decel * 10 ^ 12) ≤ v * v := by
  have hpos : 0 < 2 * p.decel * 10 ^ 12 := by positivity
  unfold stopDist
  rw [← Nat.le_div_iff_mul_le hpos]
  generalize v * v / (2 * p.decel * 10 ^ 12) = q
  omega

theorem slowed_toNat (dt : Nat) (s : State) :
    (slowed dt s).toNat =
      min s.vMoveMax.toNat (max s.params.vStart (s.currentSpeed.toNat - s.params.decel * dt)) :=
  toWord_min_toNat _ _

/-! ### The emitter -/

/-- The interval is at least one microsecond and far below the range of a deadline (R218). -/
theorem interval_bounds {s : State} (h : s.params.legal = true) :
    1 ≤ interval s ∧ interval s ≤ 10 ^ 12 := by
  have := (legal_iff s.params).1 h
  have hq : 10 ^ 12 / s.currentSpeed.toNat ≤ 10 ^ 12 := Nat.div_le_self _ _
  unfold interval
  omega

/-- The pulse loop in one place (R221 to R226): it sends `m` pulses, at most the number allowed, all
in the current direction, and position, DIR and STEP follow them. -/
theorem pulseLoop_spec (iv n : Nat) (s : State) : ∃ m ≤ n,
    (pulseLoop iv n s).trace = s.trace ++ List.replicate m s.direction ∧
    (pulseLoop iv n s).position = wrap64 (s.position.toInt + m * s.direction.val) ∧
    (pulseLoop iv n s).dirOut = (if m = 0 then s.dirOut else s.direction.bit) ∧
    (pulseLoop iv n s).stepOut = (if m = 0 then s.stepOut else false) := by
  induction n generalizing s with
  | zero => exact ⟨0, by simp [pulseLoop, wrap64_toInt]⟩
  | succ n ih =>
    unfold pulseLoop
    split
    · split
      · exact ⟨1, by omega, by simp⟩
      · obtain ⟨m, hm, h1, h2, h3, h4⟩ := ih (pulse iv s)
        refine ⟨m + 1, by omega, ?_, ?_, ?_, ?_⟩
        · rw [h1]; simp [List.replicate_succ]
        · rw [h2, pulse_position, pulse_direction, wrap64_add]
          congr 1; push_cast; ring
        · rw [h3]; simp
        · rw [h4]; simp
    · exact ⟨0, by omega, by simp [wrap64_toInt]⟩

/-- The pulse loop leaves the mode, or, in a Move that is not reversing, arrives (R226). -/
theorem pulseLoop_mode (iv n : Nat) (s : State) :
    (pulseLoop iv n s).mode = s.mode ∨
      (s.mode = .move ∧ s.reversing = false ∧ (pulseLoop iv n s).mode = .idle ∧
        (pulseLoop iv n s).position = s.target) := by
  induction n generalizing s with
  | zero => exact .inl rfl
  | succ n ih =>
    unfold pulseLoop
    split
    · split
      · rename_i h
        simp only [arrived, Bool.and_eq_true, decide_eq_true_eq, Bool.not_eq_true'] at h
        obtain ⟨⟨h1, h2⟩, h3⟩ := h
        exact .inr ⟨by simpa using h1, by simpa using h2, rfl, by simpa using h3⟩
      · rcases ih (pulse iv s) with h | ⟨h1, h2, h3, h4⟩
        · exact .inl (by simpa using h)
        · exact .inr ⟨by simpa using h1, by simpa using h2, h3, by simpa using h4⟩
    · exact .inl rfl

end Sys2Proof.Machine
end

