-- ==== Sys2Proof/Laws/Emitter.lean ====
section
/-! SUPPORT. The pulse loop and the emitter phase, said once (spec: 47_step_pulse_emitter.md R215 to
R229). -/

namespace Sys2Proof.Machine

/-- Where a Move that is not reversing stops (R226): no pulse before the last one reached the target,
and the last one did exactly where the loop left Move. -/
theorem pulseLoop_arrival (iv n : Nat) (s : State) (hm : s.mode = .move) (hr : s.reversing = false) :
    ∃ m ≤ n, (pulseLoop iv n s).trace = s.trace ++ List.replicate m s.direction ∧
      (∀ k : Nat, 1 ≤ k → k < m → wrap64 (s.position.toInt + k * s.direction.val) ≠ s.target) ∧
      (((pulseLoop iv n s).mode = .move ∧ (1 ≤ m → wrap64 (s.position.toInt + m * s.direction.val) ≠ s.target)) ∨
       ((pulseLoop iv n s).mode = .idle ∧ 1 ≤ m ∧ wrap64 (s.position.toInt + m * s.direction.val) = s.target)) := by
  induction n generalizing s with
  | zero => exact ⟨0, by simp [pulseLoop, hm]⟩
  | succ n ih =>
    unfold pulseLoop
    split
    · split
      · rename_i h
        simp only [arrived, Bool.and_eq_true, decide_eq_true_eq, Bool.not_eq_true'] at h
        refine ⟨1, by omega, by simp, by intro k h1 h2; omega, .inr ⟨rfl, by omega, ?_⟩⟩
        simpa using h.2
      · rename_i h
        have hne : wrap64 (s.position.toInt + s.direction.val) ≠ s.target := by
          intro e; apply h; simp [arrived, hm, hr, e]
        obtain ⟨m, hmn, h1, h2, h3⟩ := ih (pulse iv s) (by simpa using hm) (by simpa using hr)
        have hw : ∀ k : Nat, wrap64 ((pulse iv s).position.toInt + k * (pulse iv s).direction.val) = wrap64 (s.position.toInt + (k + 1 : Nat) * s.direction.val) := by
          intro k; rw [pulse_position, pulse_direction, wrap64_add]; congr 1; push_cast; ring
        refine ⟨m + 1, by omega, by rw [h1]; simp [List.replicate_succ], ?_, ?_⟩
        · intro k hk1 hk2
          rcases Nat.eq_or_lt_of_le hk1 with rfl | hk
          · simpa using hne
          · obtain ⟨j, rfl⟩ : ∃ j, k = j + 1 := ⟨k - 1, by omega⟩
            rw [← hw]; exact h2 j (by omega) (by omega)
        · rw [hw] at h3
          rcases h3 with ⟨h3, h4⟩ | ⟨h3, h4, h5⟩
          · refine .inl ⟨h3, fun _ => ?_⟩
            rcases Nat.eq_zero_or_pos m with rfl | hm0
            · simpa using hne
            · exact h4 hm0
          · exact .inr ⟨h3, by omega, h5⟩
    · exact ⟨0, by simp [hm]⟩

/-- How the schedule advances while the loop does not arrive (R221, R225): one interval a pulse, and
where pulses were left over none is due. -/
theorem pulseLoop_schedule (iv n : Nat) (s : State) (hb : s.now.toNat < 2 ^ 63) (hiv : iv ≤ 10 ^ 12)
   (hend : (pulseLoop iv n s).mode ≠ .idle) :
    ∃ m ≤ n, (pulseLoop iv n s).trace = s.trace ++ List.replicate m s.direction ∧
      (pulseLoop iv n s).nextStepDeadline.toNat = s.nextStepDeadline.toNat + m * iv ∧
      (m < n → s.now.toNat < (pulseLoop iv n s).nextStepDeadline.toNat) := by
  induction n generalizing s with
  | zero => exact ⟨0, by simp [pulseLoop]⟩
  | succ n ih =>
    unfold pulseLoop at hend ⊢
    split
    · rename_i hdue
      rw [if_pos hdue] at hend
      split
      · rename_i ha; simp [ha] at hend
      · rename_i ha; rw [if_neg ha] at hend
        obtain ⟨m, hmn, h1, h2, h3⟩ := ih (pulse iv s) (by simpa using hb) hend
        have hd : (pulse iv s).nextStepDeadline.toNat = s.nextStepDeadline.toNat + iv := by
          rw [pulse_nextStepDeadline]; apply toWord_toNat
          simp [pulseDue] at hdue; omega
        refine ⟨m + 1, by omega, by rw [h1]; simp [List.replicate_succ], by rw [h2, hd]; ring, ?_⟩
        intro hlt; simpa using h3 (by omega)
    · rename_i hdue; refine ⟨0, by omega, by simp, by simp, ?_⟩
      intro; simpa [pulseDue] using hdue

/-- A pulse goes out only when it is due: before the `k`-th of them the schedule is `k` intervals on,
and not past now (R221, R225). -/
theorem pulseLoop_due (iv n : Nat) (s : State) (hb : s.now.toNat < 2 ^ 63) (hiv : iv ≤ 10 ^ 12) :
    ∃ m, (pulseLoop iv n s).trace = s.trace ++ List.replicate m s.direction ∧
      ∀ k : Nat, k < m → s.nextStepDeadline.toNat + k * iv ≤ s.now.toNat := by
  induction n generalizing s with
  | zero => exact ⟨0, by simp [pulseLoop]⟩
  | succ n ih =>
    unfold pulseLoop
    split
    · rename_i hdue
      simp only [pulseDue, decide_eq_true_eq] at hdue
      split
      · refine ⟨1, by simp, fun k hk => ?_⟩
        obtain rfl : k = 0 := by omega
        omega
      · obtain ⟨m, h1, h2⟩ := ih (pulse iv s) (by simpa using hb)
        have hd : (pulse iv s).nextStepDeadline.toNat = s.nextStepDeadline.toNat + iv := by
          rw [pulse_nextStepDeadline]; exact toWord_toNat (by omega)
        refine ⟨m + 1, by rw [h1]; simp [List.replicate_succ], fun k hk => ?_⟩
        cases k with
        | zero => omega
        | succ k =>
          have := h2 k (by omega)
          rw [hd, pulse_now] at this
          rw [Nat.succ_mul]; omega
    · exact ⟨0, by simp, by omega⟩

/-- A pulse that is due goes out first, in the current direction (R221, R223). -/
theorem pulseLoop_first (iv n : Nat) (s : State) (hn : 1 ≤ n) (hd : pulseDue s = true) (ht : s.trace = []) :
   (pulseLoop iv n s).trace.head? = some s.direction := by
  obtain ⟨n, rfl⟩ : ∃ k, n = k + 1 := ⟨n - 1, by omega⟩
  unfold pulseLoop
  rw [if_pos hd]
  split
  · simp [ht]
  · obtain ⟨m, -, h, -⟩ := pulseLoop_spec iv n (pulse iv s)
    rw [h]; simp [ht]

/-- What the emitter phase does to the fields the invariants mention: it leaves the mode or arrives,
and a running schedule is ahead of now (R226, R227, R229). -/
theorem emit_facts (s : State) (hl : s.params.legal = true) (hn : s.now.toNat < 2 ^ 63) (ht : s.trace = [])
   (hv : s.mode ≠ .idle → s.params.vStart ≤ s.currentSpeed.toNat) (hs : s.stepOut = false) :
   ((emit s).mode = s.mode ∨ (s.mode = .move ∧ s.reversing = false ∧ (emit s).mode = .idle)) ∧
   (emit s).reversing = s.reversing ∧
   ((emit s).mode ≠ .idle → (emit s).brakeHold = false → s.now.toNat < (emit s).nextStepDeadline.toNat) ∧
   ((emit s).motionStartTime = s.motionStartTime ∨ (emit s).motionStartTime = s.now) ∧
   (emit s).trace.length ≤ s.params.nMaxPulses ∧ (emit s).stepOut = false := by
  have hl' := (legal_iff _).1 hl
  unfold emit
  split
  · rename_i hm; simp [hm, ht, hs]
  · rename_i hm
    split
    · rename_i hh; simp only [held, Bool.and_eq_true] at hh; simp [ht, hs, hh.1.2]
    · rename_i hh
      have hrm : (releaseBrake s).motionStartTime = s.motionStartTime ∨ (releaseBrake s).motionStartTime = s.now := by
        unfold releaseBrake; split <;> simp
      have hv' := hv hm
      unfold emitRunning
      rw [if_neg (by simp; omega)]
      obtain ⟨m, hm1, t1, -, -, t4⟩ := pulseLoop_spec (interval (releaseBrake s)) s.params.nMaxPulses (releaseBrake s)
      have hmode := pulseLoop_mode (interval (releaseBrake s)) s.params.nMaxPulses (releaseBrake s)
      simp only [dropBacklog_keeps, pulseLoop_keeps, releaseBrake_keeps] at *
      refine ⟨?_, trivial, ?_, hrm, ?_, ?_⟩
      · rcases hmode with h | ⟨h1, h2, h3, h4⟩
        · exact .inl h
        · exact .inr ⟨h1, h2, h3⟩
      · intro hend _
        have hib := interval_bounds (s := releaseBrake s) (by simpa using hl)
        have hdl := pulseLoop_schedule (interval (releaseBrake s)) s.params.nMaxPulses (releaseBrake s) (by simpa using hn) hib.2 hend
        simp only [releaseBrake_keeps] at hdl
        obtain ⟨m, hmn, h1, h2, h3⟩ := hdl
        unfold dropBacklog
        split
        · simp only [pulseLoop_keeps, releaseBrake_keeps]
          rw [toWord_toNat (by omega)]; omega
        · rename_i hnd
          simp only [pulseDue, pulseLoop_keeps, releaseBrake_keeps, decide_eq_true_eq, not_and] at hnd
          have := hnd hend; omega
      · rw [t1, ht]; simpa using hm1
      · rw [t4, hs]; simp

/-- Equal directions add up (R229 item 2). -/
theorem netSteps_replicate (m : Nat) (d : Dir) : netSteps (List.replicate m d) = m * d.val := by
  induction m with
  | zero => simp [netSteps]
  | succ m ih => rw [List.replicate_succ, netSteps, ih]; push_cast; ring

end Sys2Proof.Machine
end

