-- ==== Sys2Proof/Laws/Step.lean ====
section
/-! SUPPORT. Everything a command that asks for a Move, a button and a step can do, once each: what
later proofs cite in place of unfolding them. -/

namespace Sys2Proof.Machine

/-- A move command that has a target is a Move request for it (R155 to R158, R165). -/
theorem exec_of_requestedTarget (i : Instr) (s : State) (t : Word) (h : requestedTarget s i = some t) :
    exec i s = .next (moveRequest t s) := by
  cases i <;> simp [requestedTarget] at h
  · simp [exec, execGt, absoluteTarget, fitsWord, requestIf]
    obtain ⟨⟨h1, h2⟩, rfl⟩ := h
    rw [if_pos (by omega)]
  · simp [exec, execMr, relativeTarget, absoluteTarget, fitsWord, requestIf]
    obtain ⟨⟨h1, h2⟩, rfl⟩ := h
    rw [if_pos (by omega)]
  · obtain ⟨h1, rfl⟩ := h
    simp [exec, execGh, recallSlot, State.slot, h1]
  · obtain ⟨h1, rfl⟩ := h
    simp [exec, execGw, recallSlot, State.slot, h1]

/-- What `Debounce` leaves of a record: `lastStable` follows, and no stored time is ahead of now
(R130, R250). -/
theorem debounce_facts (p : Params) (sample : Bool) (now : Word) (b : ButtonState)
   (h : b.lastTransition.toNat ≤ now.toNat ∧ b.pressStart.toNat ≤ now.toNat) :
   (debounce p sample now b).1.lastStable = (debounce p sample now b).1.stable ∧
   (debounce p sample now b).1.lastTransition.toNat ≤ now.toNat ∧
   (debounce p sample now b).1.pressStart.toNat ≤ now.toNat := by
  have k1 : ∀ b : ButtonState, b.lastTransition.toNat ≤ now.toNat ∧ b.pressStart.toNat ≤ now.toNat →
     ((trackRaw sample now b).lastTransition.toNat ≤ now.toNat ∧ (trackRaw sample now b).pressStart.toNat ≤ now.toNat) := by
    intro b h; unfold trackRaw; split <;> simp [h]
  have k2 : ∀ b : ButtonState, b.lastTransition.toNat ≤ now.toNat ∧ b.pressStart.toNat ≤ now.toNat →
     ((acceptLevel p now b).lastTransition.toNat ≤ now.toNat ∧ (acceptLevel p now b).pressStart.toNat ≤ now.toNat) := by
    intro b h; unfold acceptLevel; split <;> simp [h]
  have k3 : ∀ b : ButtonState, b.lastTransition.toNat ≤ now.toNat ∧ b.pressStart.toNat ≤ now.toNat →
     ((flagLong p now b).lastTransition.toNat ≤ now.toNat ∧ (flagLong p now b).pressStart.toNat ≤ now.toNat) := by
    intro b h; unfold flagLong; split <;> simp [h]
  have k4 : ∀ b : ButtonState, b.lastTransition.toNat ≤ now.toNat ∧ b.pressStart.toNat ≤ now.toNat →
     ((edge now b).1.lastStable = (edge now b).1.stable ∧ (edge now b).1.lastTransition.toNat ≤ now.toNat ∧ (edge now b).1.pressStart.toNat ≤ now.toNat) := by
    intro b h; unfold edge; split
    · rename_i e; simp [h, e]
    · split <;> simp [h]
  exact k4 _ (k3 _ (k2 _ (k1 _ h)))

/-- A tick is refused exactly where it is not defined (R275). -/
theorem tickRefusal_none_iff (now : Word) (s : State) (hl : s.params.legal = true) :
    tickRefusal now s.lineQueue s = none ↔ TickDefined now s := by
  unfold tickRefusal TickDefined
  have : (s.lineQueue.any fun l => l.any isTerminator) = true ↔ ¬ (s.lineQueue.all lineClean = true) := by
    simp [lineClean]
  split
  · simp [hl]; omega
  · split
    · simp [hl]; omega
    · split
      · rename_i h; simp only [reduceCtorEq, false_iff]; rw [this] at h; simp_all
      · rename_i h; rw [this] at h; simp_all

/-- With no trip the gate leaves `opened`, and its verdict is `GateOpens` (R239 to R242). -/
theorem safetyGate_opened (now : Word) (inp : Levels) (rest : List Event) (s : State) (he : inp.estop = false) :
    safetyGate inp.estop (sampleInputs now inp {s with script := rest, lineQueue := []}) =
    (opened now inp rest s, decide (GateOpens now inp s)) := by
  simp only [safetyGate, he]
  rcases Bool.eq_false_or_eq_true s.enabled with hen | hen <;>
  simp [enableDrive, sampleInputs, opened, hen, he, settled, elapsed, GateOpens]; omega

/-- A step whose event is a tick is the tick on the queued lines (R12, R81). -/
theorem step_tick {now : Word} {inp : Levels} {rest : List Event} {s : State} (h : NextIsTick now inp rest s) :
   step s = if s.params.legal then tick now inp s.lineQueue {s with script := rest, lineQueue := []} else .refused .illegalConfig := by
  simp [step, runScript, NextIsTick] at *
  rw [h]; rfl

/-- Everything a step that answers a next state can have done (R12, R119, R265). -/
theorem step_cases {s t : State} (h : step s = .next t) : s.params.legal = true ∧
    ((s.script = [] ∧ t = s) ∨
     (∃ bytes rest, s.script = .rx bytes :: rest ∧ t = receive bytes { s with script := rest }) ∨
     (∃ rest, s.script = .reset :: rest ∧ t = resetBlock { s with script := rest }) ∨
     (∃ now inp rest, NextIsTick now inp rest s ∧ TickDefined now s ∧
       ((inp.estop = true ∧
          t = endTick (trip (sampleInputs now inp { s with script := rest, lineQueue := [] }))) ∨
        (inp.estop = false ∧ ¬ GateOpens now inp s ∧ t = endTick (opened now inp rest s)) ∨
        (GateOpens now inp s ∧ ∃ u,
          runLines s.lineQueue (arbiter inp (opened now inp rest s)) = .next u ∧
          t = endTick (motionPhases inp (now.toNat - s.lastTickTime.toNat) u))))) := by
  by_cases hl : s.params.legal = true
  swap
  · simp [step, runScript, hl] at h
  refine ⟨hl, ?_⟩
  cases hs : s.script with
  | nil => left; simp [step, runScript, hl, hs] at h; exact ⟨rfl, h.symm⟩
  | cons e rest =>
    cases e with
    | rx bytes => right; left; simp [step, runScript, hl, hs, runEvent] at h; exact ⟨bytes, rest, rfl, h.symm⟩
    | reset => right; right; left; simp [step, runScript, hl, hs, runEvent] at h; exact ⟨rest, rfl, h.symm⟩
    | tick now inp =>
      right; right; right
      rw [step_tick (show NextIsTick now inp rest s from hs), if_pos hl, tick] at h
      cases hr : tickRefusal now s.lineQueue { s with script := rest, lineQueue := [] } with
      | some r => simp [hr] at h
      | none =>
        have hd := (tickRefusal_none_iff now s hl).1 hr
        refine ⟨now, inp, rest, hs, hd, ?_⟩
        simp only [hr] at h
        cases he : inp.estop
        · right
          rw [safetyGate_opened now inp rest s he] at h
          by_cases hg : GateOpens now inp s
          · right
            refine ⟨hg, ?_⟩
            obtain ⟨u, hu⟩ := runLines_total s.lineQueue (arbiter inp (opened now inp rest s))
            simp only [decide_eq_true hg, if_true, hu, andThen] at h
            exact ⟨u, hu, by simpa using h.symm⟩
          · left
            simp only [decide_eq_false hg] at h
            exact ⟨rfl, hg, by simpa using h.symm⟩
        · left; simp [safetyGate, he] at h; exact ⟨rfl, h.symm⟩

end Sys2Proof.Machine
end

