-- ==== Sys2Proof/Laws/Invariant.lean ====
section
/-! SUPPORT. What holds of the state inside an open-gate tick, phase by phase: the facts that carry
`Inv` (`MidTick`) and `Aimed` from the gate to the end of the tick (spec: 10_state.md R51). -/

namespace Sys2Proof.Machine

/-- What holds from phase 2 of an open-gate tick up to its emitter. -/
structure MidTick (s : State) : Prop where
  legal : s.params.legal = true
  reversing_move : s.reversing = true → s.mode = .move
  speed_floor : s.mode ≠ .idle → s.params.vStart ≤ s.currentSpeed.toNat
  one_remote : ¬ (s.remoteJogLeft = true ∧ s.remoteJogRight = true)
  jog_range : s.params.vAcceptMin ≤ s.vJogMax.toNat ∧ s.vJogMax.toNat ≤ s.params.vAcceptMax
  move_range : s.params.vAcceptMin ≤ s.vMoveMax.toNat ∧ s.vMoveMax.toNat ≤ s.params.vAcceptMax
  enabled : s.enabled = true
  settled : s.settleStart.toNat + s.params.settleUs ≤ s.now.toNat
  home_settled : s.btnHome.lastStable = s.btnHome.stable
  well_settled : s.btnWell.lastStable = s.btnWell.stable
  clock_range : s.now.toNat < 2 ^ 63
  stamps : s.motionStartTime.toNat ≤ s.now.toNat ∧
    s.settleStart.toNat ≤ s.now.toNat ∧ s.brakeStart.toNat ≤ s.now.toNat ∧
    s.btnHome.lastTransition.toNat ≤ s.now.toNat ∧
    s.btnHome.pressStart.toNat ≤ s.now.toNat ∧
    s.btnWell.lastTransition.toNat ≤ s.now.toNat ∧
    s.btnWell.pressStart.toNat ≤ s.now.toNat
  trace_nil : s.trace = []
  step_low : s.stepOut = false
  lines_clean : s.lineQueue = [] ∧ lineClean s.rxPartial = true

theorem MidTick.moveRequest {s : State} (h : MidTick s) (t : Word) : MidTick (moveRequest t s) := by
  have hsp := startFromIdle_speed (s := beginMove t s) (by simpa using h.legal)
  obtain ⟨h1,h2,h3,h4,h5,h6,h7,h8,h9,h10,h11,h12,h13,h14,h15⟩ := h
  rcases moveRequest_cases t s with ⟨-, -, e⟩ | ⟨hm, -, e⟩ | ⟨hm, -, e⟩ | ⟨hm, -, e⟩ | ⟨hm, -, hd, e⟩ | ⟨hm, -, hd, e⟩ <;> rw [e]
  · exact ⟨h1,h2,h3,h4,h5,h6,h7,h8,h9,h10,h11,h12,h13,h14,h15⟩
  all_goals constructor <;> simp_all

theorem MidTick.saveSlot {s : State} (h : MidTick s) (k : Slot) : MidTick (saveSlot k s) := by
  obtain ⟨h1,h2,h3,h4,h5,h6,h7,h8,h9,h10,h11,h12,h13,h14,h15⟩ := h
  cases k <;> constructor <;> simp_all

theorem MidTick.setRemote {s : State} (h : MidTick s) (l r : Bool) (hlr : ¬ (l = true ∧ r = true)) : MidTick (setRemoteJog l r s) := by
  obtain ⟨h1,h2,h3,h4,h5,h6,h7,h8,h9,h10,h11,h12,h13,h14,h15⟩ := h
  constructor <;> first | exact hlr | simp_all

theorem MidTick.exec {i : Instr} {s t : State} (h : MidTick s) (he : exec i s = .next t) : MidTick t := by
  obtain ⟨u, hu, hc⟩ := exec_cases i s
  rw [hu] at he
  obtain rfl : u = t := by simpa using he
  rcases hc with rfl | ⟨w, rfl⟩ | ⟨k, rfl⟩ | ⟨l, r, hlr, rfl⟩ | rfl | ⟨v, hv1, hv2, hv⟩
  · exact h
  · exact h.moveRequest w
  · exact h.saveSlot k
  · exact h.setRemote l r hlr
  · exact (h.setRemote false false (by decide)).moveRequest _
  · have hl := (legal_iff _).1 h.legal
    have hw : (toWord v).toNat = v := toWord_toNat (by omega)
    obtain ⟨h1,h2,h3,h4,h5,h6,h7,h8,h9,h10,h11,h12,h13,h14,h15⟩ := h
    rcases hv with rfl | rfl <;> constructor <;> simp_all

theorem MidTick.setBtn {s : State} (h : MidTick s) (k : Slot) (b : ButtonState)
   (hb : b.lastStable = b.stable ∧ b.lastTransition.toNat ≤ s.now.toNat ∧ b.pressStart.toNat ≤ s.now.toNat) : MidTick (s.setBtn k b) := by
  obtain ⟨h1,h2,h3,h4,h5,h6,h7,h8,h9,h10,h11,h12,h13,h14,h15⟩ := h
  cases k <;> constructor <;> simp_all [State.setBtn]

theorem MidTick.serve {s : State} (h : MidTick s) (k : Slot) (sample : Bool) : MidTick (serveButton k sample s) := by
  have hb : (s.btn k).lastTransition.toNat ≤ s.now.toNat ∧ (s.btn k).pressStart.toNat ≤ s.now.toNat := by
    have := h.stamps
    cases k <;> simp only [State.btn] <;> omega
  have := h.setBtn k _ (debounce_facts s.params sample s.now _ hb)
  exact applyRelease_of_ops k _ this (fun t => this.moveRequest t) (this.saveSlot k)


theorem MidTick.startBrake {s : State} (h : MidTick s) : MidTick (startBrake s) := by
  unfold Machine.startBrake
  split
  · obtain ⟨h1,h2,h3,h4,h5,h6,h7,h8,h9,h10,h11,h12,h13,h14,h15⟩ := h
    exact ⟨h1,h2,h3,h4,h5,h6,h7,h8,h9,h10,h11,by simp; omega,h13,h14,h15⟩
  · exact h

theorem MidTick.enterJog {s : State} (h : MidTick s) : MidTick (enterJog s) ∧ (enterJog s).mode = .jog ∧ (enterJog s).reversing = false := by
  have hsp := startFromIdle_speed h.legal
  obtain ⟨h1,h2,h3,h4,h5,h6,h7,h8,h9,h10,h11,h12,h13,h14,h15⟩ := h
  unfold Machine.enterJog
  split
  · rename_i hm
    refine ⟨⟨h1,h2,h3,h4,h5,h6,h7,h8,h9,h10,h11,h12,h13,h14,h15⟩, hm, ?_⟩
    cases hr : s.reversing
    · rfl
    · have := h2 hr; rw [hm] at this; cases this
  · rename_i hm
    have hr : s.reversing = false := by
      cases hr : s.reversing
      · rfl
      · have := h2 hr; rw [hm] at this; cases this
    refine ⟨⟨h1, ?_, ?_,h4,h5,h6,h7,h8,h9,h10,h11,?_,h13,h14,h15⟩, rfl, hr⟩
    · simp [startFromIdle, hr]
    · intro; exact le_of_eq hsp.symm
    · simp; omega
  · rename_i hm
    refine ⟨⟨h1, by simp, ?_,h4,h5,h6,h7,h8,h9,h10,h11,?_,h13,h14,h15⟩, rfl, rfl⟩
    · intro; exact h3 (by simp [hm])
    · simp; omega

theorem MidTick.jog {s : State} (h : MidTick s) (d : Demand) : MidTick (jogArbitrate d s) ∧
   (if (jogArbitrate d s).mode = .jog then (jogArbitrate d s).prevDemand.dir? = some (jogArbitrate d s).direction
    else (jogArbitrate d s).prevDemand = .neutral) := by
  unfold jogArbitrate
  split
  · rename_i dir hd
    obtain ⟨hM, hm, hr⟩ := h.startBrake.enterJog
    obtain ⟨h1,h2,h3,h4,h5,h6,h7,h8,h9,h10,h11,h12,h13,h14,h15⟩ := hM
    refine ⟨⟨h1,h2,h3,h4,h5,h6,h7,h8,h9,h10,h11,h12,h13,h14,h15⟩, ?_⟩
    simp [hm, hd]
  · rename_i hd
    have hdn : d = .neutral := by cases d <;> simp [Demand.dir?] at hd ⊢
    obtain ⟨h1,h2,h3,h4,h5,h6,h7,h8,h9,h10,h11,h12,h13,h14,h15⟩ := h
    unfold releaseJog
    split
    · rename_i hm
      refine ⟨⟨h1,?_,by simp,h4,h5,h6,h7,h8,h9,h10,h11,h12,h13,h14,h15⟩, by simp [hdn]⟩
      simp; cases hr : s.reversing
      · rfl
      · have := h2 hr; rw [hm] at this; cases this
    · rename_i hm; exact ⟨⟨h1,h2,h3,h4,h5,h6,h7,h8,h9,h10,h11,h12,h13,h14,h15⟩, by simp [hdn, hm]⟩
    · rename_i hm; exact ⟨⟨h1,h2,h3,h4,h5,h6,h7,h8,h9,h10,h11,h12,h13,h14,h15⟩, by simp [hdn, hm]⟩

theorem MidTick.speed {s : State} (h : MidTick s) (w : Word) (hw : s.mode ≠ .idle → s.params.vStart ≤ w.toNat) :
   MidTick { s with currentSpeed := w } := by
  obtain ⟨h1,h2,h3,h4,h5,h6,h7,h8,h9,h10,h11,h12,h13,h14,h15⟩ := h
  exact ⟨h1,h2,hw,h4,h5,h6,h7,h8,h9,h10,h11,h12,h13,h14,h15⟩

theorem MidTick.flip {s : State} (h : MidTick s) : MidTick (flipAtFloor s) := by
  unfold flipAtFloor
  split
  · obtain ⟨h1,h2,h3,h4,h5,h6,h7,h8,h9,h10,h11,h12,h13,h14,h15⟩ := h
    exact ⟨h1,by simp,h3,h4,h5,h6,h7,h8,h9,h10,h11,h12,h13,h14,h15⟩
  · exact h

theorem MidTick.prof {s : State} (h : MidTick s) (dt : Nat) : MidTick (profile dt s) ∧
   ((profile dt s).mode = .jog → (profile dt s).currentSpeed.toNat ≤ s.vJogMax.toNat) ∧
   ((profile dt s).mode = .move → (profile dt s).currentSpeed.toNat ≤ s.vMoveMax.toNat) ∧
   (profile dt s).mode = s.mode ∧
   ((profile dt s).mode = .jog → (profile dt s).direction = s.direction) := by
  have hl := (legal_iff _).1 h.legal
  have hlow : ∀ n, s.mode = .move → s.params.vStart ≤ (slowed n s).toNat ∧ (slowed n s).toNat ≤ s.vMoveMax.toNat := by
    intro n hm; rw [slowed_toNat]; have := h.move_range; omega
  have hmv : ∀ n, s.params.vStart ≤ s.currentSpeed.toNat → 
     s.params.vStart ≤ (toWord (min s.vMoveMax.toNat (s.currentSpeed.toNat + n))).toNat ∧
     (toWord (min s.vMoveMax.toNat (s.currentSpeed.toNat + n))).toNat ≤ s.vMoveMax.toNat := by
    intro n hs; rw [toWord_min_toNat]; have := h.move_range; omega
  have hjg : ∀ n, s.params.vStart ≤ s.currentSpeed.toNat → 
     s.params.vStart ≤ (toWord (min s.vJogMax.toNat (s.currentSpeed.toNat + n))).toNat ∧
     (toWord (min s.vJogMax.toNat (s.currentSpeed.toNat + n))).toNat ≤ s.vJogMax.toNat := by
    intro n hs; rw [toWord_min_toNat]; have := h.jog_range; omega
  have hjb : s.params.vStart ≤ s.currentSpeed.toNat → 
     s.params.vStart ≤ (toWord (min s.currentSpeed.toNat s.vJogMax.toNat)).toNat ∧
     (toWord (min s.currentSpeed.toNat s.vJogMax.toNat)).toNat ≤ s.vJogMax.toNat := by
    intro hs; rw [toWord_min_toNat]; have := h.jog_range; omega
  unfold profile
  split
  · rename_i hm
    exact ⟨h.speed _ (by simp [hm]), by simp [hm]⟩
  · rename_i hm
    have h3' := h.speed_floor (by simp [hm])
    split
    · exact ⟨h.speed _ (fun _ => (hjb h3').1), by simp [hm, (hjb h3').2]⟩
    · exact ⟨h.speed _ (fun _ => (hjg _ h3').1), by simp [hm, (hjg _ h3').2]⟩
  · rename_i hm
    have h3' := h.speed_floor (by simp [hm])
    split
    · exact ⟨(h.speed _ (fun _ => (hlow dt hm).1)).flip, by simp [hm, (hlow dt hm).2]⟩
    · split
      · exact ⟨h.speed _ (fun _ => (hlow dt hm).1), by simp [hm, (hlow dt hm).2]⟩
      · exact ⟨h.speed _ (fun _ => (hmv _ h3').1), by simp [hm, (hmv _ h3').2]⟩

theorem MidTick.arb {s : State} (h : MidTick s) (inp : Levels) : MidTick (arbiter inp s) := (h.serve _ _).serve _ _

theorem MidTick.opened {s : State} (h : Inv s) {now inp rest} (hd : TickDefined now s) (hg : GateOpens now inp s) : MidTick (opened now inp rest s) := by
  obtain ⟨h1,h2,h3,h4,h5,h6,h7,h8,h9,h10,h11,h12,h13,h14,h15,h16,h17,h18,h19⟩ := h
  obtain ⟨d1, d2, d3, d4⟩ := hd
  obtain ⟨g1, g2, g3⟩ := hg
  refine ⟨h1,h2,h5,h6,h8,h9,rfl,?_,h13,h14,d3,?_,rfl,h18,rfl,h19.2⟩
  · cases he : s.enabled
    · simp [Machine.opened, he, g3 he]
    · simp [Machine.opened, he, g2 he]
  · simp only [Machine.opened]
    refine ⟨by omega, ?_, by omega, by omega, by omega, by omega, by omega⟩
    split <;> omega

/-! ### The side the target lies on -/

theorem aimed_moveRequest {s : State} (h : Aimed s) (t : Word) : Aimed (moveRequest t s) := by
  rcases moveRequest_cases t s with ⟨-, -, e⟩ | ⟨hm, hn, e⟩ | ⟨hm, hn, e⟩ | ⟨hm, -, e⟩ | ⟨hm, hn, hd, e⟩ | ⟨hm, hn, hd, e⟩ <;> rw [e]
  · exact h
  · intro _; simp [hn.symm]
  · intro _; simp [hn.symm]
  · intro hm; cases hm
  · intro _; simp [hn.symm, hd]
  · intro _; simp [hn.symm, hd]

theorem aimed_exec {i : Instr} {s t : State} (h : Aimed s) (he : exec i s = .next t) : Aimed t := by
  obtain ⟨u, hu, hc⟩ := exec_cases i s
  rw [hu] at he
  obtain rfl : u = t := by simpa using he
  rcases hc with rfl | ⟨w, rfl⟩ | ⟨k, rfl⟩ | ⟨l, r, hlr, rfl⟩ | rfl | ⟨v, hv1, hv2, hv⟩
  · exact h
  · exact aimed_moveRequest h w
  · cases k <;> exact h
  · exact h
  · exact aimed_moveRequest (s := setRemoteJog false false s) h _
  · rcases hv with rfl | rfl <;> exact h

theorem aimed_serve {s : State} (h : Aimed s) (k : Slot) (sample : Bool) : Aimed (serveButton k sample s) := by
  have : Aimed (s.setBtn k (debounce s.params sample s.now (s.btn k)).1) := by
    cases k <;> exact h
  exact applyRelease_of_ops k _ this (fun t => aimed_moveRequest this t) (by cases k <;> exact this)

theorem aimed_jog {s : State} (h : Aimed s) (d : Demand) : Aimed (jogArbitrate d s) := by
  unfold jogArbitrate
  split
  · intro hm; exfalso; revert hm; unfold enterJog; split <;> simp_all
  · unfold releaseJog
    split
    · intro hm; cases hm
    · exact h
    · exact h

theorem aimed_prof {s : State} (h : Aimed s) (dt : Nat) : Aimed (profile dt s) := by
  unfold profile
  split
  · exact h
  · split <;> exact h
  · rename_i hm
    split
    · rename_i hr
      unfold flipAtFloor
      split
      · intro _; have := h hm; simp [hr] at this ⊢; exact ⟨this.1, this.2.1⟩
      · exact h
    · split <;> exact h

theorem wrap64_small {x : Int} (h1 : -(2^63) ≤ x) (h2 : x < 2^63) : (wrap64 x).toInt = x := by
  simp only [wrap64, BitVec.toInt_ofInt]
  rw [Int.bmod_eq_of_le] <;> norm_num <;> omega

theorem dirOf_eq_right {x : Int} : dirOf x = .right ↔ 0 ≤ x := by unfold dirOf; split <;> simp <;> omega
theorem dirOf_eq_left {x : Int} : dirOf x = .left ↔ x < 0 := by unfold dirOf; split <;> simp <;> omega

theorem aimed_emit {s : State} (h : Aimed s) (ha : awayFromEnds s) : Aimed (emit s) := by
  unfold emit
  split
  · exact h
  · split
    · exact h
    · by_cases hm : s.mode = .move
      swap
      · intro hm'
        exfalso
        unfold emitRunning at hm'
        split at hm'
        · simp at hm'; exact hm hm'
        · simp at hm'
          rcases pulseLoop_mode (interval (releaseBrake s)) s.params.nMaxPulses (releaseBrake s) with e | ⟨e, -⟩
          · rw [e] at hm'; simp at hm'; exact hm hm'
          · simp at e; exact hm e
      have hrb : releaseBrake s = s := by simp [releaseBrake, hm]
      rw [hrb]
      unfold emitRunning
      split
      · exact h
      · obtain ⟨h1, h2, h3⟩ := h hm
        intro hend
        have h1' : s.position.toInt ≠ s.target.toInt := fun e => h1 (BitVec.toInt_inj.mp e)
        simp only [dropBacklog_keeps, pulseLoop_keeps] at *
        have hne : (pulseLoop (interval s) s.params.nMaxPulses s).position ≠ s.target ↔ (pulseLoop (interval s) s.params.nMaxPulses s).position.toInt ≠ s.target.toInt := by
          rw [not_iff_not, BitVec.toInt_inj]
        rw [hne]
        obtain ⟨m', hmn', t1, hp, -⟩ := pulseLoop_spec (interval s) s.params.nMaxPulses s
        cases hr : s.reversing
        · obtain ⟨m, hmn, g1, g2, g3⟩ := pulseLoop_arrival (interval s) s.params.nMaxPulses s hm hr
          have hmm : m' = m := by
            have := congrArg List.length (g1.symm.trans t1); simpa using this.symm
          subst hmm
          rw [hend] at g3
          simp only [true_and, reduceCtorEq, false_and, or_false] at g3
          simp only [hr, Bool.false_eq_true, if_false, false_implies, and_true] at h2 ⊢
          have key : ∀ k : Nat, k ≤ m' → wrap64 (s.position.toInt + k * s.direction.val) ≠ s.target := by
            intro k hk
            rcases Nat.eq_zero_or_pos k with rfl | hk0
            · simpa [wrap64_toInt] using h1
            · rcases Nat.eq_or_lt_of_le hk with rfl | hk1
              · exact g3 hk0
              · exact g2 k hk0 hk1
          have key2 : ∀ k : Nat, k ≤ m' → s.position.toInt + k * s.direction.val ≠ s.target.toInt := by
            intro k hk e
            apply key k hk; rw [e, wrap64_toInt]
          rw [hp]
          cases hd : s.direction
          · rw [hd] at h2 key2; rw [dirOf_eq_left] at h2 ⊢
            simp only [Dir.val] at key2 ⊢
            rw [wrap64_small (by omega) (by omega)]
            have : ¬ (s.position.toInt - s.target.toInt ≤ m') := by
              intro hle
              apply key2 (s.position.toInt - s.target.toInt).toNat (by omega); omega
            omega
          · rw [hd] at h2 key2; rw [dirOf_eq_right] at h2 ⊢
            simp only [Dir.val] at key2 ⊢
            rw [wrap64_small (by omega) (by omega)]
            have : ¬ (s.target.toInt - s.position.toInt ≤ m') := by
              intro hle
              apply key2 (s.target.toInt - s.position.toInt).toNat (by omega); omega
            omega
        · simp only [hr, if_true, true_implies] at h2 h3 ⊢
          clear hne h
          rw [hp]
          cases hd : s.direction <;> cases hpd : s.pendingDirection <;> simp only [hd, hpd, ne_eq, reduceCtorEq, not_false_iff, not_true] at h3 h2 ⊢
          · rw [dirOf_eq_right] at *
            simp only [Dir.val]
            rw [wrap64_small (by omega) (by omega)]
            exact ⟨by omega, by omega, trivial⟩
          · rw [dirOf_eq_left] at *
            simp only [Dir.val]
            rw [wrap64_small (by omega) (by omega)]
            exact ⟨by omega, by omega, trivial⟩

end Sys2Proof.Machine
end

