-- ==== Sys2Proof/Laws/PerInstr.lean ====
section
/-! SUPPORT. The statements made per command, one lemma for each constructor of `Instr`. -/

namespace Sys2Proof.Laws.EncodedLine

open Sys2Proof

/-- A command's line begins with its opcode's two bytes, and ends there exactly where the command
takes no numeral (R83, R90). -/
def Statement (i : Instr) : Prop :=
  (encode i).take 2 = opcodeBytes i.opcode16 ∧
    ((encode i).length = 2 ↔ takesNumeral i.opcode16 = false)

theorem intText_ne_nil (v : Int) : intText v ≠ [] := by
  unfold intText
  split
  · simp
  · exact natText_ne_nil _

theorem uspsText_ne_nil (v : Nat) : uspsText v ≠ [] := by
  unfold uspsText
  split
  · exact natText_ne_nil _
  · simp

/-- The bare commands. -/
theorem of_bare {i : Instr} (h : i.argText = []) (ht : takesNumeral i.opcode16 = false) :
    Statement i := by
  simp [Statement, encode, opcodeBytes, h, ht]

/-- The commands with a numeral. -/
theorem of_numeral {i : Instr} (h : i.argText ≠ []) (ht : takesNumeral i.opcode16 = true) :
    Statement i := by
  simp [Statement, encode, opcodeBytes, h, ht]

theorem jl : Statement .jl := of_bare rfl rfl
theorem jr : Statement .jr := of_bare rfl rfl
theorem js : Statement .js := of_bare rfl rfl
theorem st : Statement .st := of_bare rfl rfl
theorem gt (v : Int) : Statement (.gt v) := of_numeral (intText_ne_nil v) rfl
theorem mr (v : Int) : Statement (.mr v) := of_numeral (intText_ne_nil v) rfl
theorem gh : Statement .gh := of_bare rfl rfl
theorem gw : Statement .gw := of_bare rfl rfl
theorem sh : Statement .sh := of_bare rfl rfl
theorem sw : Statement .sw := of_bare rfl rfl
theorem vj (v : Nat) : Statement (.vj v) := of_numeral (uspsText_ne_nil v) rfl
theorem vm (v : Nat) : Statement (.vm v) := of_numeral (uspsText_ne_nil v) rfl

end Sys2Proof.Laws.EncodedLine
end

