-- ==== Sys2Proof/Tests/Slice0.lean ====
section
/-! SUPPORT. Tests on fixed values, their expected results from spec/95_test_vectors.md (named by the
vector) or worked by hand from the rule named, and one witness for the hypotheses of every
obligation that has some. -/

namespace Sys2Proof.Tests

open Sys2Proof Sys2Proof.Machine

/-! ### Helpers -/

/-- The next state, where there is one. -/
def nextOf : Host.Outcome State Fault Refusal → Option State
  | .next s => some s
  | .fault _ => none
  | .refused _ => none

/-- The reason of a refusal. -/
def refusalOf : Host.Outcome State Fault Refusal → Option Refusal
  | .next _ => none
  | .fault _ => none
  | .refused r => some r

theorem next_of_any {o : Host.Outcome State Fault Refusal} {p : State → Bool}
    (h : (nextOf o).any p = true) : ∃ t, o = .next t ∧ p t = true := by
  cases o with
  | next s => exact ⟨s, rfl, h⟩
  | fault r => cases h
  | refused r => cases h

theorem refused_of {o : Host.Outcome State Fault Refusal} {r : Refusal}
    (h : refusalOf o = some r) : o = .refused r := by
  cases o with
  | next s => cases h
  | fault r => cases h
  | refused r' => cases h; rfl

/-- A signed step count. -/
def steps (x : Int) : Word := BitVec.ofInt 64 x

/-- Input levels in the order of R46. -/
def lev (jl jr home well stop : Bool) : Levels :=
  { jogLeftBtn := jl, jogRightBtn := jr, homeBtn := home, wellBtn := well, estop := stop }

/-- `READY` of the vectors, at the tick after it. -/
def ready : State :=
  { State.reset with enabled := true, lastTickTime := 80000#64, now := 81000#64 }

/-- `s` about to run one tick on the lines. -/
def due (s : State) (now : Word) (inp : Levels) (lines : List Line) : State :=
  { s with lineQueue := lines, script := [.tick now inp] }

/-- The state after one tick. -/
def tickOf (s : State) (now : Word) (inp : Levels) (lines : List Line) : Option State :=
  nextOf (step (due s now inp lines))

/-- A Move at cruise (MV5). -/
def moving : State :=
  { ready with
    mode := .move, position := steps 1200, target := steps 5000, commandedTarget := steps 5000,
    currentSpeed := 2000000000#64, motionStartTime := 100#64, nextStepDeadline := 81000#64 }

/-- A left jog past its brake delay (JA3). -/
def jogging : State :=
  { ready with
    mode := .jog, direction := .left, currentSpeed := 335000000#64, motionStartTime := 100#64,
    nextStepDeadline := 81100#64, prevDemand := .left, remoteJogLeft := true }

/-- A reversal under way (PR22). -/
def turning : State :=
  { moving with reversing := true, pendingDirection := .left, target := steps (-50) }

/-! ### WellFormed -/

theorem test_wellFormed_bare_needs_two_bytes :
    Instr.wellFormed 1 .jl = false ∧ Instr.wellFormed 2 .jl = true := by decide

theorem test_wellFormed_int_room :
    Instr.wellFormed 2 (.gt 5) = false ∧ Instr.wellFormed 3 (.gt 5) = true ∧
    Instr.wellFormed 3 (.mr (-5)) = false ∧ Instr.wellFormed 4 (.mr (-5)) = true ∧
    Instr.wellFormed 5 (.mr 1000) = false ∧ Instr.wellFormed 6 (.mr 1000) = true := by decide

theorem test_wellFormed_dec_room :
    Instr.wellFormed 9 (.vj 1234567) = false ∧ Instr.wellFormed 10 (.vj 1234567) = true ∧
    Instr.wellFormed 4 (.vm 250000) = false ∧ Instr.wellFormed 5 (.vm 250000) = true ∧
    Instr.wellFormed 4 (.vm 150000000) = false ∧ Instr.wellFormed 5 (.vm 150000000) = true := by
  decide

/-! ### Decoding: every constructor by a word of the spec -/

/-- DE1 to DE8. -/
theorem test_decode_bare :
    decodeLine 32 [0x4A#8, 0x4C#8] = some .jl ∧ decodeLine 32 [0x4A#8, 0x52#8] = some .jr ∧
    decodeLine 32 [0x4A#8, 0x53#8] = some .js ∧ decodeLine 32 [0x53#8, 0x54#8] = some .st ∧
    decodeLine 32 [0x47#8, 0x48#8] = some .gh ∧ decodeLine 32 [0x47#8, 0x57#8] = some .gw ∧
    decodeLine 32 [0x53#8, 0x48#8] = some .sh ∧ decodeLine 32 [0x53#8, 0x57#8] = some .sw := by
  decide

/-- DE10, DE12, DE13, DE14. -/
theorem test_decode_int :
    decodeLine 32 [0x47#8, 0x54#8, 0x2D#8, 0x35#8, 0x30#8, 0x30#8, 0x30#8] = some (.gt (-5000)) ∧
    decodeLine 32 [0x47#8, 0x54#8, 0x30#8, 0x30#8, 0x37#8] = some (.gt 7) ∧
    decodeLine 32 [0x4D#8, 0x52#8, 0x2D#8, 0x30#8] = some (.mr 0) ∧
    decodeLine 32 [0x4D#8, 0x52#8, 0x31#8, 0x32#8] = some (.mr 12) := by decide

/-- DE22, DE24, DE23, DE25. -/
theorem test_decode_dec :
    decodeLine 32 [0x56#8, 0x4D#8, 0x38#8, 0x30#8, 0x30#8, 0x2E#8, 0x35#8] = some (.vm 800500000) ∧
    decodeLine 32 [0x56#8, 0x4D#8, 0x31#8, 0x32#8, 0x2E#8] = some (.vm 12000000) ∧
    decodeLine 32 [0x56#8, 0x4A#8, 0x2E#8, 0x32#8, 0x35#8] = some (.vj 250000) ∧
    decodeLine 32 [0x56#8, 0x4A#8, 0x31#8, 0x2E#8, 0x32#8, 0x33#8, 0x34#8, 0x35#8, 0x36#8, 0x37#8,
      0x38#8, 0x39#8] = some (.vj 1234567) := by decide

/-- Unrecognised lines of 2.1: empty, `J`, `jl`, `JL `, ` JL`, `JL5`, `GT`, `GT-`, `GT5.0`, `GT--5`,
`MR+`, `VJ`, `VJ.`, `VJ-5`, `VJ1e3`, `VJ1.2.3`, `GX`. -/
theorem test_decode_none :
    ([[], [0x4A#8], [0x6A#8, 0x6C#8], [0x4A#8, 0x4C#8, 0x20#8], [0x20#8, 0x4A#8, 0x4C#8],
      [0x4A#8, 0x4C#8, 0x35#8], [0x47#8, 0x54#8], [0x47#8, 0x54#8, 0x2D#8],
      [0x47#8, 0x54#8, 0x35#8, 0x2E#8, 0x30#8], [0x47#8, 0x54#8, 0x2D#8, 0x2D#8, 0x35#8],
      [0x4D#8, 0x52#8, 0x2B#8], [0x56#8, 0x4A#8], [0x56#8, 0x4A#8, 0x2E#8],
      [0x56#8, 0x4A#8, 0x2D#8, 0x35#8], [0x56#8, 0x4A#8, 0x31#8, 0x65#8, 0x33#8],
      [0x56#8, 0x4A#8, 0x31#8, 0x2E#8, 0x32#8, 0x2E#8, 0x33#8],
      [0x47#8, 0x58#8]] : List Line).all (fun l => decodeLine 32 l = none) = true := by decide

/-- DE19, DE20: the line limit. -/
theorem test_decode_line_max :
    (decodeLine 32 (0x47#8 :: 0x54#8 :: List.replicate 30 0x31#8)).isSome = true ∧
    decodeLine 32 (0x47#8 :: 0x54#8 :: List.replicate 31 0x31#8) = none := by decide

/-- The framing example of 2.1: `GT5`, the empty line, `JL`; and no terminator, no line. -/
theorem test_frame :
    frameBytes [] [0x47#8, 0x54#8, 0x35#8, 0x0D#8, 0x0A#8, 0x4A#8, 0x4C#8, 0x0A#8] =
      ([[0x47#8, 0x54#8, 0x35#8], [], [0x4A#8, 0x4C#8]], []) ∧
    frameBytes [] [0x4A#8, 0x4C#8] = ([], [0x4A#8, 0x4C#8]) := by decide

/-- R96: the shortest spellings. -/
theorem test_encode :
    encode (.mr (-60)) = [0x4D#8, 0x52#8, 0x2D#8, 0x36#8, 0x30#8] ∧
    encode (.vm 800500000) = [0x56#8, 0x4D#8, 0x38#8, 0x30#8, 0x30#8, 0x2E#8, 0x35#8] ∧
    encode (.vj 250000) = [0x56#8, 0x4A#8, 0x2E#8, 0x32#8, 0x35#8] := by decide

/-- The rows of spec/opcode_table.json. -/
theorem test_table_words :
    [0x4A4C, 0x4A52, 0x4A53, 0x5354, 0x4754, 0x4D52, 0x4748, 0x4757, 0x5348, 0x5357, 0x564A,
      0x564D].map (decodeTableWord 16) =
    [some .jl, some .jr, some .js, some .st, some (.gt 0), some (.mr 0), some .gh, some .gw,
      some .sh, some .sw, some (.vj 0), some (.vm 0)] := by decide

/-- A table word placed by `withFetchWord` runs in the very next step after reset. -/
theorem test_fetch_word :
    (nextOf (step (State.reset.withFetchWord 16 0x4A4C))).any
      (fun t => t.mode = .jog ∧ t.direction = .left ∧ t.lineQueue = [] ∧ t.script = []) = true := by
  decide

/-! ### The commands -/

/-- JG3. -/
theorem test_jl : (nextOf (exec .jl { ready with remoteJogRight := true })).any
    (fun t => t.remoteJogLeft = true ∧ t.remoteJogRight = false) = true := by decide

/-- JG5. -/
theorem test_jr : (nextOf (exec .jr { ready with remoteJogLeft := true })).any
    (fun t => t.remoteJogLeft = false ∧ t.remoteJogRight = true) = true := by decide

/-- JG7, and R147: a Move is not touched. -/
theorem test_js : (nextOf (exec .js { moving with remoteJogRight := true })).any
    (fun t => t.remoteJogRight = false ∧ t.mode = .move) = true := by decide

/-- The stop of 2.4, from a reversal: no flip. -/
theorem test_st_move : (nextOf (exec .st turning)).any
    (fun t => t.mode = .idle ∧ t.reversing = false ∧ t.target = steps 1200 ∧
      t.commandedTarget = steps 1200 ∧ t.direction = .right ∧ t.currentSpeed = 2000000000#64) = true := by
  decide

/-- R148: in Jog only the flags are cleared. -/
theorem test_st_jog : (nextOf (exec .st jogging)).any
    (fun t => t.mode = .jog ∧ t.remoteJogLeft = false ∧ t.target = jogging.target) = true := by decide

/-- MV3. -/
theorem test_gt_idle :
    (nextOf (exec (.gt (-40))
      { ready with position := steps 10, currentSpeed := 77#64, nextStepDeadline := 12#64,
                   now := 5000#64 })).any
      (fun t => t.mode = .move ∧ t.target = steps (-40) ∧ t.commandedTarget = steps (-40) ∧
        t.direction = .left ∧ t.currentSpeed = 200000000#64 ∧ t.motionStartTime = 5000#64 ∧
        t.nextStepDeadline = 5000#64) = true := by decide

/-- DE16, DE17: the ends of the range. -/
theorem test_gt_range :
    nextOf (exec (.gt 9223372036854775808) ready) = some ready ∧
    (nextOf (exec (.gt (-9223372036854775808)) ready)).any (fun t => t.mode = .move) = true := by
  decide

/-- R156's example. -/
theorem test_mr : (nextOf (exec (.mr (-60)) { ready with position := steps (-40) })).any
    (fun t => t.target = steps (-100) ∧ t.direction = .left) = true := by decide

/-- MV21, and R156: an operand outside 64 bits whose sum is inside. -/
theorem test_mr_range :
    nextOf (exec (.mr 9223372036854775807) { ready with position := steps 1 }) =
      some { ready with position := steps 1 } ∧
    (nextOf (exec (.mr 9223372036854775808) { ready with position := steps (-1) })).any
      (fun t => t.target = steps 9223372036854775807) = true := by decide

/-- R157's example. -/
theorem test_gh :
    (nextOf (exec .gh { ready with slotHome := { steps := steps 1500, saved := true } })).any
      (fun t => t.mode = .move ∧ t.target = steps 1500) = true := by decide

/-- E11. -/
theorem test_gw_unsaved : nextOf (exec .gw ready) = some ready := by decide

/-- ST3: a save overwrites. -/
theorem test_sh :
    (nextOf (exec .sh
      { ready with position := steps 9, slotHome := { steps := steps 1234, saved := true } })).any
      (fun t => t.slotHome = { steps := steps 9, saved := true } ∧ t.slotWell = ready.slotWell) = true := by
  decide

/-- ST2. -/
theorem test_sw :
    (nextOf (exec .sw
      { ready with position := steps (-77), slotHome := { steps := steps 1234, saved := true } })).any
      (fun t => t.slotWell = { steps := steps (-77), saved := true } ∧
        t.slotHome = { steps := steps 1234, saved := true }) = true := by decide

/-- ST5, ST6. -/
theorem test_vj :
    (nextOf (exec (.vj 1500000000) ready)).any
      (fun t => t.vJogMax = 1500000000#64 ∧ t.vMoveMax = ready.vMoveMax) = true ∧
    nextOf (exec (.vj 100000000) ready) = some ready := by decide

/-- ST9, ST8: the upper bound is inside, one above it is not. -/
theorem test_vm :
    (nextOf (exec (.vm 20000000000) ready)).any
      (fun t => t.vMoveMax = 20000000000#64 ∧ t.vJogMax = ready.vJogMax) = true ∧
    nextOf (exec (.vm 20000000001) ready) = some ready := by decide

/-! ### Phases and whole ticks -/

/-- DB3 and DB6: equality accepts the press; a hold of exactly `LONG_PRESS_US` is a long press. -/
theorem test_debounce_long :
    debounce Params.t0 true 125000#64
      { ButtonState.reset with raw := true, lastTransition := 100000#64 } =
      (⟨true, true, true, 100000#64, 125000#64, false⟩, none) ∧
    debounce Params.t0 false 1325000#64 ⟨false, true, true, 1300000#64, 125000#64, false⟩ =
      (⟨false, false, false, 1300000#64, 125000#64, true⟩, some .longPress) := by decide

/-- DB5 and DB2. -/
theorem test_debounce_tap :
    debounce Params.t0 false 1324999#64 ⟨false, true, true, 1299999#64, 125000#64, false⟩ =
      (⟨false, false, false, 1299999#64, 125000#64, false⟩, some .tap) ∧
    (debounce Params.t0 true 124999#64
      { ButtonState.reset with raw := true, lastTransition := 100000#64 }).1.stable = false := by
  decide

/-- JA4 and JA5. -/
theorem test_jog_arbitrate :
    jogArbitrate .neutral { jogging with brakeHold := true, brakeStart := 6900#64 } =
      { jogging with mode := .idle, brakeStart := 6900#64, prevDemand := .neutral } ∧
    jogArbitrate .left { moving with now := 7000#64 } =
      { moving with
        now := 7000#64, mode := .jog, direction := .left, target := steps 1200,
        motionStartTime := 7000#64, brakeHold := true, brakeStart := 7000#64,
        prevDemand := .left } := by decide

/-- PR14, PR15: the deceleration trigger, one step apart. -/
theorem test_profile_trigger :
    (profile 1000 { moving with position := steps 4498 }).currentSpeed = 2000000000#64 ∧
    (profile 1000 { moving with position := steps 4499 }).currentSpeed = 1996000000#64 := by decide

/-- PR23: the flip at the floor. -/
theorem test_profile_flip :
    profile 1000 { turning with currentSpeed := 203000000#64, now := 1950000#64 } =
      { turning with
        currentSpeed := 200000000#64, now := 1950000#64, direction := .left, reversing := false,
        nextStepDeadline := 1950000#64 } := by decide

/-- PR5, PR6: the end of the soft-start window. -/
theorem test_profile_window :
    (profile 1000 { jogging with currentSpeed := 400000000#64, motionStartTime := 0#64,
                                 now := 349999#64 }).currentSpeed = 400500000#64 ∧
    (profile 1000 { jogging with currentSpeed := 400000000#64, motionStartTime := 0#64,
                                 now := 350000#64 }).currentSpeed = 402000000#64 := by decide

/-- EM8: the cap, and the backlog dropped. -/
theorem test_emit_backlog :
    emit { moving with nextStepDeadline := 11500#64, position := steps 8, now := 14000#64 } =
      { moving with
        nextStepDeadline := 14500#64, position := steps 12, now := 14000#64,
        trace := [.right, .right, .right, .right] } := by decide

/-- EM9, EM11: the exact stop, and no stop while reversing. -/
theorem test_emit_exact_stop :
    emit { moving with nextStepDeadline := 11500#64, position := steps 8, target := steps 9,
                       now := 14000#64 } =
      { moving with
        nextStepDeadline := 12000#64, position := steps 9, target := steps 9, now := 14000#64,
        mode := .idle, trace := [.right] } ∧
    (emit { turning with nextStepDeadline := 11500#64, position := steps 8, target := steps 9,
                         now := 12000#64 }).position = steps 10 := by decide

/-- EM2, EM3: the end of the brake hold. -/
theorem test_emit_brake :
    (emit { jogging with brakeHold := true, brakeStart := 1000#64, now := 250999#64 }).trace = [] ∧
    (emit { jogging with brakeHold := true, brakeStart := 1000#64, now := 251000#64,
                         currentSpeed := 200000000#64 }).nextStepDeadline = 256000#64 ∧
    (emit { jogging with brakeHold := true, brakeStart := 1000#64, now := 251000#64 }).position =
      steps (-1) := by decide

/-- SG1, SG2, SG3. -/
theorem test_gate :
    safetyGate false State.reset = ({ State.reset with enabled := true }, false) ∧
    (safetyGate false { ready with now := 79999#64 }).2 = false ∧
    safetyGate false { ready with now := 80000#64 } = ({ ready with now := 80000#64 }, true) := by
  decide

/-- JG13: a Move requested and stopped in one tick. -/
theorem test_tick_gt_st :
    (tickOf ready 81000#64 noInputs
      [[0x47#8, 0x54#8, 0x31#8, 0x30#8, 0x30#8], [0x53#8, 0x54#8]]).any
      (fun t => t.mode = .idle ∧ t.target = 0#64 ∧ t.currentSpeed = 196000000#64 ∧
        t.motionStartTime = 81000#64 ∧ t.nextStepDeadline = 81000#64 ∧ t.trace = [] ∧
        t.lastTickTime = 81000#64) = true := by decide

/-- MV16: case 2, case 5, and the flip at once. -/
theorem test_tick_flip :
    (tickOf ready 81000#64 noInputs
      [[0x47#8, 0x54#8, 0x31#8, 0x30#8, 0x30#8], [0x47#8, 0x54#8, 0x2D#8, 0x31#8, 0x30#8, 0x30#8]]).any
      (fun t => t.mode = .move ∧ t.target = steps (-100) ∧ t.direction = .left ∧
        t.reversing = false ∧ t.currentSpeed = 200000000#64 ∧ t.position = steps (-1) ∧
        t.nextStepDeadline = 86000#64 ∧ t.dirOut = false ∧ t.trace = [.left]) = true := by decide

/-- MV20: accepted, then pre-empted. -/
theorem test_tick_preempted :
    (tickOf ready 81000#64 (lev true false false false false)
      [[0x47#8, 0x54#8, 0x31#8, 0x30#8, 0x30#8]]).any
      (fun t => t.mode = .jog ∧ t.direction = .left ∧ t.target = 0#64 ∧
        t.commandedTarget = steps 100 ∧ t.currentSpeed = 200000000#64 ∧ t.brakeHold = true ∧
        t.brakeStart = 81000#64 ∧ t.prevDemand = .left ∧ t.trace = []) = true := by decide

/-- R47, R48 by hand: one left pulse on inverted pins. -/
theorem test_pins :
    State.pins { ready with
      trace := [.left], params := { Params.t0 with dirInvert := true } } =
      [.dir true, .hold 5, .step true, .hold 5, .step false] ∧
    State.enablePin { ready with params := { Params.t0 with enableActiveLow := true } } = false := by
  decide

/-- Why `QuiescentStaysQuiescent` asks for the buttons to be at rest (NOTES.md): a release pending
with a saved slot starts a Move though every input level is 0. -/
theorem test_pending_release_ends_quiescence :
    quiescent { ready with lineQueue := [] } ∧
    (tickOf { ready with
        slotHome := { steps := steps 5, saved := true }
        btnHome := ⟨false, true, true, 0#64, 0#64, false⟩ } 81000#64 noInputs []).any
      (fun t => t.mode = .move) = true := by decide

/-- Why `StepKeepsAimed` keeps away from the ends (NOTES.md): a pulse that wraps while reversing
changes the side the target lies on. -/
theorem test_wrap_loses_aim :
    let s := { turning with position := steps 9223372036854775807, trace := [] }
    Aimed s ∧ ¬ Aimed (emit s) ∧ ¬ awayFromEnds s := by decide

/-! ### Witnesses: concrete states and operands that meet the hypotheses of the obligations -/

/-- The event a witness runs: a tick at 81000 with no input. -/
def quietTick : List Event := [.tick 81000#64 noInputs]

theorem wit_ExampleLinesDecode : 7 ≤ 32 := by decide

theorem wit_DecodeOfEncode :
    Instr.wellFormed 4 (.mr (-9)) = true ∧ Instr.wellFormed 2 .sw = true ∧
    Instr.wellFormed 5 (.vj 250000) = true := by decide

theorem wit_DecodedIsWellFormedAndEncodeShortest :
    decodeLine 5 [0x47#8, 0x54#8, 0x30#8, 0x30#8, 0x37#8] = some (.gt 7) := by decide

theorem wit_OnlyTwelveOpcodesDecode :
    decodeLine 2 [0x4A#8, 0x4C#8] = some .jl ∧
    (0x4A#8).toNat * 256 + (0x4B#8).toNat ∉ [0x4A4C, 0x4A52, 0x4A53, 0x5354, 0x4754, 0x4D52, 0x4748,
      0x4757, 0x5348, 0x5357, 0x564A, 0x564D] := by decide

theorem wit_TrailingTextAndBlanksUnrecognised :
    ((0x53#8).toNat * 256 + (0x54#8).toNat ∈
      [0x4A4C, 0x4A52, 0x4A53, 0x5354, 0x4748, 0x4757, 0x5348, 0x5357]) ∧
    (0x20#8 ∈ [0x47#8, 0x54#8, 0x20#8, 0x35#8] ∧ (0x20#8).toNat ≤ 0x20) ∧
    (0x7F#8 ∈ [0x4A#8, 0x4C#8, 0x7F#8] ∧ 0x7F ≤ (0x7F#8).toNat) ∧
    (0x80#8 ∈ [0x80#8] ∧ 0x7F ≤ (0x80#8).toNat) ∧
    2 < ([0x4D#8, 0x52#8, 0x35#8] : Line).length := by decide

/-- `-007`, `+0`, `0` and their values (R86), and a text that is none (`-`). -/
theorem wit_SignedNumeralValues :
    ([0x2D#8, 0x30#8, 0x30#8, 0x37#8] : List Byte).length + 2 ≤ 6 ∧
    SpellsInt [0x2D#8, 0x30#8, 0x30#8, 0x37#8] (-7) ∧ SpellsInt [0x2B#8, 0x30#8] 0 ∧
    SpellsInt [0x30#8] 0 ∧ ∀ v : Int, ¬ SpellsInt [0x2D#8] v := by
  refine ⟨by decide, ⟨[0x30#8, 0x30#8, 0x37#8], by decide, by decide, .inr (.inr ?_)⟩,
    ⟨[0x30#8], by decide, by decide, .inr (.inl ?_)⟩,
    ⟨[0x30#8], by decide, by decide, .inl ?_⟩, ?_⟩
  · decide
  · decide
  · decide
  · rintro v ⟨ds, hne, hd, ⟨rfl, -⟩ | ⟨h, -⟩ | ⟨h, -⟩⟩
    · revert hd; decide
    · simp at h
    · simp at h; exact hne h

/-- `012.`, `.25`, `1.23456789` and their values (R88, R89), and a text that is none (the point). -/
theorem wit_DecimalNumeralValues :
    ([0x2E#8] : List Byte).length + 2 ≤ 3 ∧
    SpellsUsps [0x30#8, 0x31#8, 0x32#8, 0x2E#8] 12000000 ∧
    SpellsUsps [0x2E#8, 0x32#8, 0x35#8] 250000 ∧
    SpellsUsps [0x31#8, 0x2E#8, 0x32#8, 0x33#8, 0x34#8, 0x35#8, 0x36#8, 0x37#8, 0x38#8, 0x39#8]
      1234567 ∧
    SpellsUsps [0x31#8, 0x35#8] 15000000 ∧ ∀ v : Nat, ¬ SpellsUsps [0x2E#8] v := by
  refine ⟨by decide,
    .inr ⟨[0x30#8, 0x31#8, 0x32#8], [], ?_⟩,
    .inr ⟨[], [0x32#8, 0x35#8], ?_⟩,
    .inr ⟨[0x31#8], [0x32#8, 0x33#8, 0x34#8, 0x35#8, 0x36#8, 0x37#8, 0x38#8, 0x39#8], ?_⟩,
    .inl ?_, ?_⟩
  · decide
  · decide
  · decide
  · decide
  · rintro v (⟨-, hd, -⟩ | ⟨is, fs, h, -, -, hne, -⟩)
    · revert hd; decide
    · cases is with
      | nil => simp at h; simp [h] at hne
      | cons b is => simp at h

theorem wit_TerminatorEndsOneLine :
    0x0A#8 ∉ ([0x4A#8, 0x0C#8, 0x0B#8] : Line) ∧ 0x0D#8 ∉ ([0x4A#8, 0x0C#8, 0x0B#8] : Line) := by
  decide

theorem wit_MoveCommandFromIdle :
    (requestedTarget ready (.gt 9223372036854775807) = some (steps 9223372036854775807) ∧
      ready.mode = .idle ∧ steps 9223372036854775807 ≠ ready.position) ∧
    (requestedTarget ready (.mr (-9223372036854775808)) = some (steps (-9223372036854775808)) ∧
      steps (-9223372036854775808) ≠ ready.position) ∧
    requestedTarget { ready with slotHome := { steps := steps 4, saved := true } } .gh = some (steps 4) ∧
    requestedTarget { ready with slotWell := { steps := steps 4, saved := true } } .gw = some (steps 4) := by
  decide

theorem wit_MoveCommandFromJog :
    requestedTarget jogging (.mr 1) = some (steps 1) ∧ jogging.mode = .jog ∧
      steps 1 ≠ jogging.position := by decide

/-- One witness for each clause, at the operand nearest the position. -/
theorem wit_RetargetInMove :
    (requestedTarget moving (.gt 1200) = some moving.position ∧ moving.mode = .move) ∧
    (requestedTarget moving (.gt 1201) = some (steps 1201) ∧ liesRight moving (steps 1201) ∧
      moving.direction = .right) ∧
    (requestedTarget moving (.gt 1199) = some (steps 1199) ∧
      (steps 1199).toInt < moving.position.toInt) ∧
    (let left := { moving with direction := .left }
     requestedTarget left (.gt 1199) = some (steps 1199) ∧ left.mode = .move ∧
      (steps 1199).toInt < left.position.toInt ∧ liesRight left (steps 1201)) := by decide

theorem wit_MoveCommandNoOps :
    (isMoveCommand (.gt 9223372036854775808) = true ∧
      requestedTarget ready (.gt 9223372036854775808) = none) ∧
    (requestedTarget ready .gh = none ∧ requestedTarget ready .gw = none) ∧
    (requestedTarget { ready with position := steps 1 } (.mr 9223372036854775807) = none) ∧
    (requestedTarget ready (.mr 0) = some ready.position ∧ ready.mode ≠ .move) := by decide

theorem wit_CeilingCommands :
    (ready.params.vAcceptMin ≤ 200000000 ∧ 200000000 ≤ ready.params.vAcceptMax) ∧
    (199999999 < ready.params.vAcceptMin) ∧ (ready.params.vAcceptMax < 20000000001) := by decide

theorem wit_RecallSeesSaveOfSameTick :
    ∃ t u, exec .sh ready = .next t ∧ exec .sw t = .next u := ⟨_, _, rfl, rfl⟩

theorem wit_TickRefusedExactlyWhenUndefined :
    NextIsTick 81000#64 noInputs [] (due ready 81000#64 noInputs []) ∧
    TickDefined 81000#64 (due ready 81000#64 noInputs []) ∧
    step (due { ready with params := { Params.t0 with decel := 0 } } 81000#64 noInputs []) =
      .refused .illegalConfig ∧
    step (due ready 79999#64 noInputs []) = .refused .timeBackwards ∧
    step (due ready 9223372036854775808#64 noInputs []) = .refused .timeOutOfRange ∧
    step (due ready 80000#64 noInputs [[0x0A#8]]) = .refused .terminatorInLine :=
  ⟨by decide, by decide, refused_of (by decide), refused_of (by decide), refused_of (by decide),
    refused_of (by decide)⟩

theorem wit_StepsThatAreNoTick :
    ({ ready with params := { Params.t0 with decel := 0 } } : State).params.legal = false ∧
    (ready.params.legal = true ∧ ready.script = []) ∧
    ({ ready with script := [.rx [0x4A#8]] } : State).script = .rx [0x4A#8] :: [] ∧
    ({ ready with script := [.reset] } : State).script = .reset :: [] := by decide

/-- Both ways an open gate can be: settled, and no settle delay at the enabling tick. -/
theorem wit_OpenTickRunsPhasesInOrder :
    (let s := due ready 80000#64 noInputs []
     NextIsTick 80000#64 noInputs [] s ∧ TickDefined 80000#64 s ∧ GateOpens 80000#64 noInputs s) ∧
    (let s := due (State.resetWith { Params.t0 with settleUs := 0 }) 0#64 noInputs []
     NextIsTick 0#64 noInputs [] s ∧ TickDefined 0#64 s ∧ GateOpens 0#64 noInputs s) := by decide

theorem wit_StepRunsDecodedCommand :
    let s := due ready 81000#64 noInputs [[0x4A#8, 0x4C#8]]
    NextIsTick 81000#64 noInputs [] s ∧ s.lineQueue = [[0x4A#8, 0x4C#8]] ∧
      TickDefined 81000#64 s ∧ GateOpens 81000#64 noInputs s ∧
      decodeLine s.params.lineMax [0x4A#8, 0x4C#8] = some .jl := by decide

theorem wit_LinesRunInArrivalOrder :
    decodeLine ready.params.lineMax [0x53#8, 0x48#8] = some .sh := by decide

theorem wit_UnrecognisedLineIsNoOp : decodeLine ready.params.lineMax [0x58#8, 0x58#8] = none := by
  decide

theorem wit_TripTick :
    let s := due moving 81000#64 (lev false false false false true) [[0x53#8, 0x48#8]]
    NextIsTick 81000#64 (lev false false false false true) [] s ∧ TickDefined 81000#64 s := by decide

/-- Both ways a gate can be closed without a trip: the enabling tick, and one microsecond short. -/
theorem wit_SettlingTick :
    (let s := due State.reset 0#64 noInputs []
     NextIsTick 0#64 noInputs [] s ∧ TickDefined 0#64 s ∧ ¬ GateOpens 0#64 noInputs s) ∧
    (let s := due { ready with lastTickTime := 0#64 } 79999#64 noInputs []
     NextIsTick 79999#64 noInputs [] s ∧ TickDefined 79999#64 s ∧ ¬ GateOpens 79999#64 noInputs s) := by
  decide

theorem wit_ClosedGateHidesCommandsAndButtons :
    let s := due State.reset 0#64 noInputs []
    NextIsTick 0#64 noInputs [] s ∧ TickDefined 0#64 s ∧
      ([[0x53#8, 0x48#8]] : List Line).all lineClean = true ∧
      (lev true false true false false).estop = noInputs.estop ∧ ¬ GateOpens 0#64 noInputs s := by
  decide

/-- A press; a release flagged by its own tick, and one a microsecond short of it; no edge. -/
theorem wit_DebounceFlagAndEvents :
    (let b : ButtonState := ⟨true, false, false, 100000#64, 0#64, true⟩
     b.lastStable = b.stable ∧ b.stable = false ∧
      (debounce Params.t0 true 125000#64 b).1.stable = true ∧
      (debounce Params.t0 true 124999#64 b).1.stable = b.stable ∧
      (true = true ↔ b.longFlag = true ∨
        (b.stable = true ∧ b.pressStart.toNat + Params.t0.longPressUs ≤ (125000#64).toNat))) ∧
    (let b : ButtonState := ⟨false, true, true, 1299999#64, 125000#64, false⟩
     b.lastStable = b.stable ∧ b.stable = true ∧
      (debounce Params.t0 false 1325000#64 b).1.stable = false ∧
      (debounce Params.t0 false 1324999#64 b).1.stable = false ∧
      (true = true ↔ b.longFlag = true ∨
        (b.stable = true ∧ b.pressStart.toNat + Params.t0.longPressUs ≤ (1325000#64).toNat)) ∧
      (false = true ↔ b.longFlag = true ∨
        (b.stable = true ∧ b.pressStart.toNat + Params.t0.longPressUs ≤ (1324999#64).toNat))) := by
  decide

theorem wit_ReleaseActsAsCommand :
    (debounce Params.t0 false 1324999#64 ⟨false, true, true, 1299999#64, 125000#64, false⟩).2 =
      some .tap ∧
    (debounce Params.t0 false 1325000#64 ⟨false, true, true, 1300000#64, 125000#64, false⟩).2 =
      some .longPress ∧
    (debounce Params.t0 true 1#64 ButtonState.reset).2 = none := by decide

theorem wit_JogDemandNeutralOnConflict :
    ((lev true false false false false).jogLeftBtn = true) ∧
    ({ ready with remoteJogRight := true } : State).remoteJogRight = true := by decide

theorem wit_BrakeHoldStartsFromNeutralOnly :
    ready.prevDemand = .neutral ∧ jogging.prevDemand ≠ .neutral ∧ Demand.right ≠ .neutral := by decide

theorem wit_JogEntry :
    Demand.dir? .right = some .right ∧ Demand.dir? .left = some .left := by decide

theorem wit_JogRelease : jogging.mode = .jog ∧ moving.mode ≠ .jog := by decide

theorem wit_JogPreemptsMoveRequestedInSameTick :
    requestedTarget ready (.gt 100) = some (steps 100) ∧ steps 100 ≠ ready.position ∧
      ready.mode ≠ .move ∧ Demand.dir? .left = some .left ∧ ∃ u, exec (.gt 100) ready = .next u :=
  ⟨by decide, by decide, by decide, by decide, _, rfl⟩

theorem wit_IdleAndJogSpeed :
    ready.mode = .idle ∧ jogging.mode = .jog ∧ jogging.brakeHold = false ∧
    ({ jogging with brakeHold := true } : State).brakeHold = true := by decide

theorem wit_MoveDecelerationTrigger :
    1 ≤ moving.params.decel ∧ moving.mode = .move ∧ moving.reversing = false := by decide

/-- Both clauses: one microsecond's deceleration short of the floor, and on it. -/
theorem wit_ReversalFlipsOnlyAtFloor :
    turning.params.legal = true ∧ turning.mode = .move ∧ turning.reversing = true ∧
      turning.params.vStart ≤ turning.vMoveMax.toNat ∧ turning.trace = [] ∧
    turning.params.vStart <
      (profile 1 { turning with currentSpeed := 200004001#64 }).currentSpeed.toNat ∧
    (profile 1 { turning with currentSpeed := 200004000#64 }).currentSpeed.toNat ≤
      turning.params.vStart := by decide

theorem wit_ProfileKeepsSpeedBounds :
    jogging.params.legal = true ∧ jogging.params.vAcceptMin ≤ jogging.vJogMax.toNat ∧
      jogging.params.vAcceptMin ≤ jogging.vMoveMax.toNat ∧
      (jogging.mode ≠ .idle → jogging.params.vStart ≤ jogging.currentSpeed.toNat) ∧
      (moving.mode ≠ .idle → moving.params.vStart ≤ moving.currentSpeed.toNat) := by decide

theorem wit_EmitterSilentCases :
    ready.mode = .idle ∧
    (let s := { jogging with brakeHold := true, brakeStart := 1000#64, now := 250999#64 }
     s.mode = .jog ∧ s.brakeHold = true ∧
      s.now.toNat < s.brakeStart.toNat + s.params.brakeReleaseUs) ∧
    (let s := { moving with currentSpeed := 49999999#64 }
     s.mode ≠ .idle ∧ (s.mode = .jog → s.brakeHold = false) ∧
      s.currentSpeed.toNat < s.params.vMinRun) := by decide

theorem wit_BrakeReleaseEmitsAtOnce :
    let s := { jogging with brakeHold := true, brakeStart := 1000#64, now := 251000#64 }
    s.params.legal = true ∧ s.mode = .jog ∧ s.brakeHold = true ∧ s.trace = [] ∧
      s.params.vMinRun ≤ s.currentSpeed.toNat ∧
      s.brakeStart.toNat + s.params.brakeReleaseUs ≤ s.now.toNat := by decide

theorem wit_EmitMovesPositionByItsTrace : moving.trace = [] := by decide

/-- Every clause: arrival and none, reversing, Jog. -/
theorem wit_EmitStopsExactlyOnTarget :
    moving.trace = [] ∧ moving.mode = .move ∧ moving.reversing = false ∧
      (emit moving).mode ≠ .idle ∧ (emit { moving with position := steps 4999 }).mode = .idle ∧
    turning.trace = [] ∧ turning.mode = .move ∧ turning.reversing = true ∧
    jogging.trace = [] ∧ jogging.mode = .jog := by
  decide

/-- Every clause: a pulse that is due, the arrival too, one interval ahead, and a backlog dropped. -/
theorem wit_ScheduleNeverBehind :
    moving.params.legal = true ∧ moving.now.toNat < 2 ^ 63 ∧ moving.trace = [] ∧
      moving.mode = .move ∧ moving.params.vMinRun ≤ moving.currentSpeed.toNat ∧
      500 = max moving.params.minIntervalUs (10 ^ 12 / moving.currentSpeed.toNat) ∧
      0 < (emit moving).trace.length ∧
      (let s := { moving with position := steps 4999 }
       0 < (emit s).trace.length ∧ (emit s).mode = .idle) ∧
      (emit moving).mode ≠ .idle ∧
      moving.now.toNat < moving.nextStepDeadline.toNat + (emit moving).trace.length * 500 ∧
    (let s := { moving with nextStepDeadline := 79000#64 }
     (emit s).mode ≠ .idle ∧ s.nextStepDeadline.toNat + (emit s).trace.length * 500 ≤ s.now.toNat) := by
  decide

theorem wit_OutputsShowState :
    ({ ready with slotHome := { steps := steps 4, saved := true } } : State).slotHome.saved = true ∧
    ({ ready with slotWell := { steps := steps 4, saved := true } } : State).slotWell.saved = true ∧
    ({ ready with estopSeen := some true } : State).estopSeen = some true ∧
    ready.trace = [] ∧ ({ ready with trace := [.left, .left] } : State).trace = .left :: [.left] := by
  decide

theorem wit_ResetIsSound : Params.t0.legal = true := by decide

/-- A configuration with both polarities the other way. -/
theorem wit_ResetTable :
    Params.t0.legal = true ∧
    ({ Params.t0 with dirInvert := true, enableActiveLow := false } : Params).legal = true := by decide

/-- A running jog meets the invariant, and its next step is a tick that answers. -/
theorem wit_StepKeepsInv :
    Inv (due { jogging with motionStartTime := 80000#64 } 81100#64 noInputs [[0x4A#8, 0x52#8]]) ∧
    ∃ t, step (due { jogging with motionStartTime := 80000#64 } 81100#64 noInputs
      [[0x4A#8, 0x52#8]]) = .next t ∧ decide (t.trace ≠ []) = true :=
  ⟨by constructor <;> decide, next_of_any (by decide)⟩

/-- Reversing and not. -/
theorem wit_StepKeepsAimed :
    (Aimed (due moving 81000#64 noInputs []) ∧ awayFromEnds moving) ∧
    (Aimed (due turning 81000#64 noInputs []) ∧ awayFromEnds turning) ∧
    (∃ t, step (due moving 81000#64 noInputs []) = .next t ∧ decide (t.mode = .move) = true) ∧
    (∃ t, step (due turning 81000#64 noInputs []) = .next t ∧ decide (t.reversing = true) = true) :=
  ⟨by decide, by decide, next_of_any (by decide), next_of_any (by decide)⟩

/-- Every clause, each way a mode can change. -/
theorem wit_ModeChangesOnlyByTable :
    (∃ t, exec (.gt 1) jogging = .next t ∧ decide (t.mode ≠ jogging.mode) = true) ∧
    (∃ t, exec .st moving = .next t ∧ decide (t.mode ≠ moving.mode) = true) ∧
    (∃ t, exec (.mr 0) moving = .next t ∧ decide (t.mode ≠ moving.mode) = true) ∧
    (let tapped := fun (s : State) (v : Int) =>
       { s with
         now := 1324999#64
         slotHome := { steps := steps v, saved := true }
         btnHome := ⟨false, true, true, 1299999#64, 125000#64, false⟩ }
     (serveButton .home false (tapped ready 5)).mode ≠ ready.mode ∧
      (serveButton .home false (tapped moving 1200)).mode ≠ moving.mode) ∧
    (jogArbitrate .right moving).mode ≠ moving.mode ∧
    (jogArbitrate .neutral jogging).mode ≠ jogging.mode ∧
    (profile 1 { turning with currentSpeed := 200004000#64 }).reversing ≠ turning.reversing ∧
    (emit { moving with position := steps 4999 }).mode ≠ moving.mode ∧
    (safetyGate true moving).1.mode ≠ moving.mode :=
  ⟨next_of_any (by decide), next_of_any (by decide), next_of_any (by decide), by decide⟩

theorem wit_PositionCountsPulses :
    (∃ t, step (due moving 82000#64 noInputs []) = .next t ∧
      decide (t.trace = [.right, .right, .right]) = true) ∧
    (∃ t, step { ready with script := [.rx [0x4A#8]] } = .next t ∧
      decide (t.rxPartial = [0x4A#8]) = true) ∧
    (∃ t, step { moving with script := [.reset] } = .next t ∧ decide (t.mode = .idle) = true) :=
  ⟨next_of_any (by decide), next_of_any (by decide), next_of_any (by decide)⟩

theorem wit_MoveEndsOnTarget :
    let s := due { moving with position := steps 4999 } 81000#64 noInputs []
    NextIsTick 81000#64 noInputs [] s ∧ s.mode = .move ∧
      ∃ t, step s = .next t ∧ decide (t.mode = .idle) = true :=
  ⟨by decide, by decide, next_of_any (by decide)⟩

theorem wit_SavedSlotsPersist :
    let s := due { moving with slotHome := { steps := steps 4, saved := true } } 81000#64 noInputs
      [[0x53#8, 0x57#8]]
    s.script.head? ≠ some .reset ∧ (s.slot .home).saved = true ∧
      ∃ t, step s = .next t ∧ decide (t.slot .well ≠ s.slot .well) = true :=
  ⟨by decide, by decide, next_of_any (by decide)⟩

theorem wit_QuiescentStaysQuiescent :
    let s := due ready 81000#64 noInputs []
    NextIsTick 81000#64 noInputs [] s ∧ TickDefined 81000#64 s ∧ quiescent s ∧
      buttonsUp s = true := by decide

theorem wit_JogFlipTakesOneTick :
    let s := due jogging 81100#64 noInputs [[0x4A#8, 0x52#8]]
    NextIsTick 81100#64 noInputs [] s ∧ TickDefined 81100#64 s ∧ GateOpens 81100#64 noInputs s ∧
      buttonsUp s = true ∧ s.mode = .jog ∧ s.prevDemand = .left ∧ s.brakeHold = false ∧
      s.lineQueue = [[0x4A#8, 0x52#8]] := by decide

end Sys2Proof.Tests
end

section
/-! SUPPORT. The statements of 10_state.md: the reset table, the pins, the slots and the parameters. -/

namespace Sys2Proof.Machine

/-! ### Reset and the pins (R48, R50) -/

/-- R10 bounds both default ceilings, so reset stores them exactly. -/
theorem resetWith_ceilings {p : Params} (h : p.legal = true) :
    (State.resetWith p).vJogMax.toNat = p.vJogDefault ∧
      (State.resetWith p).vMoveMax.toNat = p.vMoveDefault := by
  have hp := (legal_iff p).1 h
  exact ⟨toWord_toNat (by omega), toWord_toNat (by omega)⟩

/-- The drive is disabled at reset (D10), so ENABLE is at its deasserted level. -/
theorem resetWith_enablePin (p : Params) :
    (State.resetWith p).outputs.enablePin = p.enableActiveLow :=
  Bool.false_xor _

/-- `dirOut` is 1 at reset (D7). -/
theorem resetWith_dirPin (p : Params) :
    (State.resetWith p).outputs.dirPin = !p.dirInvert :=
  Bool.true_xor _

/-- Settles O44: both pins are defined as the register through its polarity. -/
theorem pinsFollowRegisters : Obligations.PinsFollowRegisters := fun _ p =>
  ⟨rfl, rfl, resetWith_enablePin p⟩

/-- Settles O57: the ceilings by R10, the pins by `resetWith_dirPin` and `resetWith_enablePin`, every
other field by its value in the table. -/
theorem resetTable : Obligations.ResetTable := by
  intro p hp s up
  have hup : up ButtonState.reset := by simp [up, ButtonState.reset]
  refine ⟨?_, ?_, rfl, rfl, resetWith_dirPin p, resetWith_enablePin p⟩
  · exact ⟨rfl, rfl, rfl, rfl, rfl, resetWith_ceilings hp⟩
  · simp [s, State.resetWith, hup]

/-! ### Saved slots (R34, R166) -/

/-- A slot depends on the two slot fields only. -/
theorem slot_congr {s t : State} (hh : t.slotHome = s.slotHome) (hw : t.slotWell = s.slotWell)
    (k : Slot) : t.slot k = s.slot k := by
  cases k
  · exact hh
  · exact hw

/-- Every slot of `t` is that of `s` or a save of the position of `s`. -/
def SlotsSaved (s t : State) : Prop :=
  ∀ k, t.slot k = s.slot k ∨ t.slot k = { steps := s.position, saved := true }

/-- What phases 1 to 3 of a tick do to the parameters, the position and the slots, since `s`. -/
structure OnlySaves (s t : State) : Prop where
  params : t.params = s.params
  position : t.position = s.position
  slots : SlotsSaved s t

namespace OnlySaves

variable {s t u : State}

/-- Where the parameters, the position and the slots are left alone, nothing was saved. -/
theorem of_frame (hp : t.params = s.params) (hx : t.position = s.position)
    (hh : t.slotHome = s.slotHome) (hw : t.slotWell = s.slotWell) : OnlySaves s t :=
  ⟨hp, hx, fun k => .inl (slot_congr hh hw k)⟩

theorem trans (hst : OnlySaves s t) (htu : OnlySaves t u) : OnlySaves s u where
  params := htu.params.trans hst.params
  position := htu.position.trans hst.position
  slots k := by
    rcases htu.slots k with h | h
    · exact h ▸ hst.slots k
    · exact .inr (hst.position ▸ h)

theorem moveRequest (w : Word) (s : State) : OnlySaves s (moveRequest w s) := by
  apply of_frame <;> simp

/-- A save takes the position, and leaves the other slot (R166). -/
theorem saveSlot (k : Slot) (s : State) : OnlySaves s (saveSlot k s) where
  params := by simp
  position := by simp
  slots j := by
    by_cases h : j = k
    · subst h; exact .inr (slotWrite_slot_self j s.position s)
    · exact .inl (slotWrite_slot_other h s.position s)

theorem setRemoteJog (l r : Bool) (s : State) : OnlySaves s (setRemoteJog l r s) :=
  of_frame rfl rfl rfl rfl

/-- No command does more to a slot than save the position into it. -/
theorem exec {i : Instr} (h : exec i s = .next t) : OnlySaves s t := by
  obtain ⟨u, hu, hc⟩ := exec_cases i s
  rw [hu] at h
  obtain rfl : u = t := by simpa using h
  rcases hc with rfl | ⟨w, rfl⟩ | ⟨k, rfl⟩ | ⟨l, r, -, rfl⟩ | rfl | ⟨v, -, -, rfl | rfl⟩
  · exact of_frame rfl rfl rfl rfl
  · exact moveRequest w s
  · exact saveSlot k s
  · exact setRemoteJog l r s
  · exact (setRemoteJog false false s).trans (moveRequest _ _)
  · exact of_frame rfl rfl rfl rfl
  · exact of_frame rfl rfl rfl rfl

/-- Phase 3. -/
theorem runLines {ls : List Line} (h : runLines ls s = .next t) : OnlySaves s t :=
  runLines_induct (fun _ _ _ hs he => hs.trans (exec he)) ls s t
    (of_frame rfl rfl rfl rfl) h

/-- One button of phase 2: its record is written, then its event is applied. -/
theorem serveButton (k : Slot) (sample : Bool) (s : State) :
    OnlySaves s (serveButton k sample s) :=
  (of_frame (by simp) (by simp) (by simp) (by simp) : OnlySaves s (s.setBtn k _)).trans
    (applyRelease_of_ops k _ (of_frame rfl rfl rfl rfl) (fun w => moveRequest w _) (saveSlot k _))

/-- Phase 2. -/
theorem arbiter (inp : Levels) (s : State) : OnlySaves s (arbiter inp s) :=
  (serveButton .home inp.homeBtn s).trans (serveButton .well inp.wellBtn _)

end OnlySaves

/-- No step writes the parameters, and no step but a reset does more to a slot than save the position
the step began with into it: the motion phases, which move the position, come after the saves (C11). -/
theorem step_saves {s t : State} (h : step s = .next t) :
    t.params = s.params ∧ (s.script.head? ≠ some .reset → SlotsSaved s t) := by
  obtain ⟨-, ⟨-, rfl⟩ | ⟨bytes, rest, -, rfl⟩ | ⟨rest, hs, rfl⟩ | ⟨now, inp, rest, -, -, hc⟩⟩ :=
    step_cases h
  · exact ⟨rfl, fun _ _ => .inl rfl⟩
  · exact ⟨rfl, fun _ k => .inl (slot_congr rfl rfl k)⟩
  · exact ⟨rfl, fun hne => absurd (by simp [hs]) hne⟩
  · rcases hc with ⟨-, rfl⟩ | ⟨-, -, rfl⟩ | ⟨-, u, hu, rfl⟩
    · exact ⟨rfl, fun _ k => .inl (slot_congr rfl rfl k)⟩
    · exact ⟨rfl, fun _ k => .inl (slot_congr rfl rfl k)⟩
    · have hopen : OnlySaves s (opened now inp rest s) := .of_frame rfl rfl rfl rfl
      have hsaves : OnlySaves s u := hopen.trans ((OnlySaves.arbiter inp _).trans (.runLines hu))
      have hslot : ∀ k, (endTick (motionPhases inp (now.toNat - s.lastTickTime.toNat) u)).slot k =
          u.slot k := slot_congr (by simp) (by simp)
      exact ⟨by simp [hsaves.params], fun _ k => by rw [hslot]; exact hsaves.slots k⟩

/-- Settles O52, by `step_saves`: either way a slot can stand after the step keeps `saved`. -/
theorem savedSlotsPersist : Obligations.SavedSlotsPersist := by
  intro s t h
  obtain ⟨hp, hslots⟩ := step_saves h
  refine ⟨hp, fun hne k => ?_⟩
  rcases hslots hne k with hk | hk
  · exact ⟨fun hs => hk ▸ hs, fun ht => .inl ⟨hk ▸ ht, hk⟩⟩
  · exact ⟨fun _ => by rw [hk], fun _ => .inr hk⟩

end Sys2Proof.Machine
end

section
/-! SUPPORT. The statements of 30_encoding.md: the opcodes, the operands, unrecognised lines, and the
commands that button releases stand for. -/

namespace Sys2Proof.Machine

/-! ### Opcodes (R90, R91, R94) -/

/-- A line that decodes begins with its command's opcode (R90). -/
theorem decodeLine_opcode16 {lineMax : Nat} {b : Line} {i : Instr}
    (h : decodeLine lineMax b = some i) :
    ∃ (b0 b1 : Byte) (arg : List Byte), b = b0 :: b1 :: arg ∧
      b0.toNat * 256 + b1.toNat = i.opcode16 := by
  obtain ⟨b0, b1, arg, hb, -, hop⟩ := decodeLine_some h
  exact ⟨b0, b1, arg, hb, (decodeOp_cases hop).1⟩

/-- R90's table has twelve rows. -/
theorem opcode16_mem (i : Instr) :
    i.opcode16 ∈ [0x4A4C, 0x4A52, 0x4A53, 0x5354, 0x4754, 0x4D52, 0x4748, 0x4757,
      0x5348, 0x5357, 0x564A, 0x564D] := by
  cases i <;> simp [Instr.opcode16]

/-- Settles O4: a line that decodes begins with its command's opcode, which is in the list; so two
bytes outside the list begin no command. -/
theorem onlyTwelveOpcodesDecode : Obligations.OnlyTwelveOpcodesDecode := by
  refine ⟨fun _ _ _ => decodeLine_opcode16, fun lineMax b0 b1 arg hnot => ?_⟩
  rw [Option.eq_none_iff_forall_ne_some]
  intro i h
  obtain ⟨c0, c1, arg', hb, hop⟩ := decodeLine_opcode16 h
  cases hb
  exact hnot (hop ▸ opcode16_mem i)

/-! ### Operands (R86, R88, R93) -/

/-- A line within the limit is decoded by its opcode and its argument (R82, R95). -/
theorem decodeLine_of_fits {lineMax : Nat} {arg : List Byte} (h : arg.length + 2 ≤ lineMax)
    (b0 b1 : Byte) :
    decodeLine lineMax (b0 :: b1 :: arg) = decodeOp (b0.toNat * 256 + b1.toNat) arg :=
  if_neg (Nat.not_lt.2 h)

/-- `GT` reads its argument by `intValue` (R90). -/
theorem decodeLine_gt {lineMax : Nat} {arg : List Byte} (h : arg.length + 2 ≤ lineMax) :
    decodeLine lineMax (0x47#8 :: 0x54#8 :: arg) = (intValue arg).map .gt := by
  simp [decodeLine_of_fits h, decodeOp]

/-- `MR` reads its argument by `intValue` (R90). -/
theorem decodeLine_mr {lineMax : Nat} {arg : List Byte} (h : arg.length + 2 ≤ lineMax) :
    decodeLine lineMax (0x4D#8 :: 0x52#8 :: arg) = (intValue arg).map .mr := by
  simp [decodeLine_of_fits h, decodeOp]

/-- `VJ` reads its argument by `uspsValue` (R90). -/
theorem decodeLine_vj {lineMax : Nat} {arg : List Byte} (h : arg.length + 2 ≤ lineMax) :
    decodeLine lineMax (0x56#8 :: 0x4A#8 :: arg) = (uspsValue arg).map .vj := by
  simp [decodeLine_of_fits h, decodeOp]

/-- `VM` reads its argument by `uspsValue` (R90). -/
theorem decodeLine_vm {lineMax : Nat} {arg : List Byte} (h : arg.length + 2 ≤ lineMax) :
    decodeLine lineMax (0x56#8 :: 0x4D#8 :: arg) = (uspsValue arg).map .vm := by
  simp [decodeLine_of_fits h, decodeOp]

/-- Where the argument's reader `o` gives exactly the values of which `P` holds, the command `f` of
the operand is decoded exactly for them, and nothing is decoded where there is none. -/
theorem map_command_iff {α : Type} {f : α → Instr} (hf : Function.Injective f) {o : Option α}
    {P : α → Prop} (hP : ∀ v, o = some v ↔ P v) :
    (∀ v, o.map f = some (f v) ↔ P v) ∧ ((∀ v, ¬ P v) → o.map f = none) := by
  constructor
  · intro v
    rw [← hP v, ← Option.map_some, (Option.map_injective hf).eq_iff]
  · intro hnone
    rw [Option.map_eq_none_iff, Option.eq_none_iff_forall_ne_some]
    exact fun v hv => hnone v ((hP v).1 hv)

/-- Settles O55: `GT` and `MR` read their argument by `intValue`, which reads R86's numerals. -/
theorem signedNumeralValues : Obligations.SignedNumeralValues := by
  intro lineMax arg hfit
  obtain ⟨gtSome, gtNone⟩ := map_command_iff (f := .gt) (fun _ _ => Instr.gt.inj)
    (intValue_eq_some_iff arg)
  obtain ⟨mrSome, mrNone⟩ := map_command_iff (f := .mr) (fun _ _ => Instr.mr.inj)
    (intValue_eq_some_iff arg)
  rw [decodeLine_gt hfit, decodeLine_mr hfit]
  exact ⟨fun v => ⟨gtSome v, mrSome v⟩, fun h => ⟨gtNone h, mrNone h⟩⟩

/-- Settles O56: `VJ` and `VM` read their argument by `uspsValue`, which reads R88's numerals. -/
theorem decimalNumeralValues : Obligations.DecimalNumeralValues := by
  intro lineMax arg hfit
  obtain ⟨vjSome, vjNone⟩ := map_command_iff (f := .vj) (fun _ _ => Instr.vj.inj)
    (uspsValue_eq_some_iff arg)
  obtain ⟨vmSome, vmNone⟩ := map_command_iff (f := .vm) (fun _ _ => Instr.vm.inj)
    (uspsValue_eq_some_iff arg)
  rw [decodeLine_vj hfit, decodeLine_vm hfit]
  exact ⟨fun v => ⟨vjSome v, vmSome v⟩, fun h => ⟨vjNone h, vmNone h⟩⟩

/-! ### The lines of a tick (R92, R113) -/

/-- An unrecognised line at the head of the queue is passed over (R92). -/
theorem runLines_cons_of_none {l : Line} {s : State} (h : decodeLine s.params.lineMax l = none)
    (ls : List Line) : runLines (l :: ls) s = runLines ls s := by
  simp only [runLines, h]

/-- A command at the head of the queue runs to completion before the rest (R113). -/
theorem runLines_cons_of_some {l : Line} {i : Instr} {s : State}
    (h : decodeLine s.params.lineMax l = some i) (ls : List Line) :
    runLines (l :: ls) s = andThen (exec i s) (runLines ls) := by
  simp only [runLines, h]

/-- The lines after the first ones start from what the first ones leave (R113). -/
theorem runLines_append (as bs : List Line) (s : State) :
    runLines (as ++ bs) s = andThen (runLines as s) (runLines bs) := by
  induction as generalizing s with
  | nil => rfl
  | cons l as ih =>
    rw [List.cons_append]
    cases hd : decodeLine s.params.lineMax l with
    | none => rw [runLines_cons_of_none hd, runLines_cons_of_none hd, ih]
    | some i =>
      obtain ⟨t, ht, -⟩ := exec_cases i s
      rw [runLines_cons_of_some hd, runLines_cons_of_some hd, ht]
      exact ih t

/-- The line limit stands in the parameters, which no line writes. -/
theorem runLines_params {ls : List Line} {s t : State} (h : runLines ls s = .next t) :
    t.params = s.params :=
  (OnlySaves.runLines h).params

/-- Settles O23: the lines before the bad one leave the line limit as it was, so the bad one is
unrecognised there too, and it is passed over. -/
theorem unrecognisedLineIsNoOp : Obligations.UnrecognisedLineIsNoOp := by
  intro as bs l s hbad
  obtain ⟨t, ht⟩ := runLines_total as s
  rw [← runLines_params ht] at hbad
  rw [runLines_append, runLines_append, ht]
  exact runLines_cons_of_none hbad bs

/-! ### Button releases as commands (R97) -/

/-- `GH` (R157). -/
theorem exec_gh (s : State) : exec .gh s = .next (recallSlot .home s) := rfl

/-- `GW` (R158). -/
theorem exec_gw (s : State) : exec .gw s = .next (recallSlot .well s) := rfl

/-- `SH` (R169). -/
theorem exec_sh (s : State) : exec .sh s = .next (saveSlot .home s) := rfl

/-- `SW` (R170). -/
theorem exec_sw (s : State) : exec .sw s = .next (saveSlot .well s) := rfl

/-- One button of phase 2: the debounced record is written back, then its event is applied (R112). -/
theorem serveButton_of_event {k : Slot} {sample : Bool} {s : State} {ev : Option Release}
    (h : (debounce s.params sample s.now (s.btn k)).2 = ev) :
    serveButton k sample s =
      applyRelease k ev (s.setBtn k (debounce s.params sample s.now (s.btn k)).1) := by
  rw [← h]; rfl

/-- Settles O29: a tap is a recall and a long press a save, of the button's own slot; with no event
nothing is applied. -/
theorem releaseActsAsCommand : Obligations.ReleaseActsAsCommand := by
  intro k sample s
  refine ⟨fun htap => ?_, fun hlong => ?_, serveButton_of_event⟩
  · rw [serveButton_of_event htap]
    cases k with
    | home => exact exec_gh _
    | well => exact exec_gw _
  · rw [serveButton_of_event hlong]
    cases k with
    | home => exact exec_sh _
    | well => exact exec_sw _

end Sys2Proof.Machine
end

section
/-! SUPPORT. The statements of 41_input_arbiter.md: the steps of `Debounce` and what an edge reports. -/

namespace Sys2Proof.Machine

/-! ### What the first two steps of `Debounce` leave alone (R126, R127) -/

@[simp] theorem trackRaw_lastStable (sample : Bool) (now : Word) (b : ButtonState) :
    (trackRaw sample now b).lastStable = b.lastStable := by
  unfold trackRaw; split <;> rfl

@[simp] theorem trackRaw_pressStart (sample : Bool) (now : Word) (b : ButtonState) :
    (trackRaw sample now b).pressStart = b.pressStart := by
  unfold trackRaw; split <;> rfl

@[simp] theorem trackRaw_longFlag (sample : Bool) (now : Word) (b : ButtonState) :
    (trackRaw sample now b).longFlag = b.longFlag := by
  unfold trackRaw; split <;> rfl

@[simp] theorem acceptLevel_lastStable (p : Params) (now : Word) (b : ButtonState) :
    (acceptLevel p now b).lastStable = b.lastStable := by
  unfold acceptLevel; split <;> rfl

@[simp] theorem acceptLevel_pressStart (p : Params) (now : Word) (b : ButtonState) :
    (acceptLevel p now b).pressStart = b.pressStart := by
  unfold acceptLevel; split <;> rfl

@[simp] theorem acceptLevel_longFlag (p : Params) (now : Word) (b : ButtonState) :
    (acceptLevel p now b).longFlag = b.longFlag := by
  unfold acceptLevel; split <;> rfl

/-! ### The long-press flag (R128) -/

@[simp] theorem flagLong_lastStable (p : Params) (now : Word) (b : ButtonState) :
    (flagLong p now b).lastStable = b.lastStable := by
  unfold flagLong; split <;> rfl

@[simp] theorem flagLong_pressStart (p : Params) (now : Word) (b : ButtonState) :
    (flagLong p now b).pressStart = b.pressStart := by
  unfold flagLong; split <;> rfl

/-- The guard on a flag already set only keeps the write from repeating. -/
theorem flagLong_longFlag_iff (p : Params) (now : Word) (b : ButtonState) :
    (flagLong p now b).longFlag = true ↔
      b.longFlag = true ∨
        (b.lastStable = true ∧ b.pressStart.toNat + p.longPressUs ≤ now.toNat) := by
  rw [← le_elapsed_iff]
  unfold flagLong
  split
  case isTrue hset =>
    obtain ⟨hheld, -, htime⟩ := hset
    exact iff_of_true rfl (.inr ⟨hheld, htime⟩)
  case isFalse hkeep =>
    cases hflag : b.longFlag with
    | true => simp
    | false => simpa [hflag] using hkeep

/-! ### Edges (R129, R130) -/

/-- No edge. -/
theorem edge_of_stable_eq {b : ButtonState} (h : b.stable = b.lastStable) (now : Word) :
    edge now b = (b, none) :=
  if_pos h

/-- A press. -/
theorem edge_of_press {b : ButtonState} (hlast : b.lastStable = false) (h : b.stable = true)
    (now : Word) :
    edge now b =
      ({ b with pressStart := now, longFlag := false, lastStable := b.stable }, none) := by
  simp [edge, hlast, h]

/-- A release. -/
theorem edge_of_release {b : ButtonState} (hlast : b.lastStable = true) (h : b.stable = false)
    (now : Word) :
    edge now b =
      ({ b with lastStable := b.stable }, some (if b.longFlag then .longPress else .tap)) := by
  simp [edge, hlast, h]

@[simp] theorem edge_stable (now : Word) (b : ButtonState) :
    (edge now b).1.stable = b.stable := by
  unfold edge; split
  · rfl
  · split <;> rfl

/-! ### `Debounce` as a whole (R125) -/

/-- On a record between ticks, `Debounce` is the edge step on a record that still holds the level
and the press start from before, and whose flag is `flagged`. -/
theorem debounce_eq_edge {b : ButtonState} {flagged : Bool} (p : Params) (sample : Bool) (now : Word)
    (hlast : b.lastStable = b.stable)
    (hflag : flagged = true ↔
      b.longFlag = true ∨ (b.stable = true ∧ b.pressStart.toNat + p.longPressUs ≤ now.toNat)) :
    ∃ c : ButtonState, debounce p sample now b = edge now c ∧ c.lastStable = b.stable ∧
      c.pressStart = b.pressStart ∧ c.longFlag = flagged := by
  refine ⟨flagLong p now (acceptLevel p now (trackRaw sample now b)), rfl, ?_, ?_, ?_⟩
  · simp [hlast]
  · simp
  · rw [Bool.eq_iff_iff, flagLong_longFlag_iff, hflag]
    simp [hlast]

/-- Settles O28: the first three steps set the flag to `flagged` and keep the level held and the press
start, and the edge step reports from these. -/
theorem debounceFlagAndEvents : Obligations.DebounceFlagAndEvents := by
  intro p sample now b flagged hlast hflag
  obtain ⟨c, hc, hheld, hstart, rfl⟩ := debounce_eq_edge p sample now hlast hflag
  rw [hc, edge_stable]
  refine ⟨fun hup hdown => ?press, fun hdown hup => ?release, fun hsame => ?noEdge⟩
  case press =>
    rw [edge_of_press (hheld.trans hup) hdown]
    exact ⟨rfl, rfl, rfl⟩
  case release =>
    rw [edge_of_release (hheld.trans hdown) hup]
    exact ⟨rfl, hstart, rfl⟩
  case noEdge =>
    rw [edge_of_stable_eq (hsame.trans hheld.symm)]
    exact ⟨rfl, hstart, rfl⟩

end Sys2Proof.Machine
end

section
/-! SUPPORT. The statements of 42_commands_jog_stop.md: the remote jog commands and the demand they
leave. -/

namespace Sys2Proof.Machine

/-! ### The jog demand (R133, R134) -/

/-- Sides asserted alike, neither or both, give neutral; otherwise the side asserted wins. -/
theorem jogDemand_eq (inp : Levels) (s : State) :
    jogDemand inp s =
      if (inp.jogLeftBtn || s.remoteJogLeft) = (inp.jogRightBtn || s.remoteJogRight) then .neutral
      else if inp.jogLeftBtn || s.remoteJogLeft then .left else .right := by
  unfold jogDemand
  generalize (inp.jogLeftBtn || s.remoteJogLeft) = l
  generalize (inp.jogRightBtn || s.remoteJogRight) = r
  cases l <;> cases r <;> rfl

/-- With the left flag alone the left side is asserted, so only the right button matters. -/
theorem jogDemand_setRemoteJog_left (inp : Levels) (s : State) :
    jogDemand inp (setRemoteJog true false s) = if inp.jogRightBtn then .neutral else .left := by
  simp [jogDemand_eq]

/-- With the right flag alone the right side is asserted, so only the left button matters. -/
theorem jogDemand_setRemoteJog_right (inp : Levels) (s : State) :
    jogDemand inp (setRemoteJog false true s) = if inp.jogLeftBtn then .neutral else .right := by
  cases h : inp.jogLeftBtn <;> simp [jogDemand_eq, h]

/-- With both flags clear the demand is that of the two buttons. -/
theorem jogDemand_setRemoteJog_clear (inp : Levels) (s : State) :
    jogDemand inp (setRemoteJog false false s) =
      if inp.jogLeftBtn = inp.jogRightBtn then .neutral
      else if inp.jogLeftBtn then .left else .right := by
  simp [jogDemand_eq]

/-! ### The commands (R145, R146, R147) -/

/-- `JL` (R145). -/
theorem exec_jl (s : State) : exec .jl s = .next (setRemoteJog true false s) := rfl

/-- `JR` (R146). -/
theorem exec_jr (s : State) : exec .jr s = .next (setRemoteJog false true s) := rfl

/-- `JS` (R147). -/
theorem exec_js (s : State) : exec .js s = .next (setRemoteJog false false s) := rfl

/-- Settles O8: each command is one `setRemoteJog`, which writes the two flags, and the demand
follows from the flags it leaves. -/
theorem remoteJogCommands : Obligations.RemoteJogCommands := by
  intro s inp
  exact ⟨⟨_, exec_jl s, rfl, jogDemand_setRemoteJog_left inp s⟩,
    ⟨_, exec_jr s, rfl, jogDemand_setRemoteJog_right inp s⟩,
    ⟨_, exec_js s, rfl, jogDemand_setRemoteJog_clear inp s⟩⟩

end Sys2Proof.Machine
end

section
/-! SUPPORT. The statements of 43_commands_move.md: `GT` of a stored word, and the recalls as `GT`. -/

namespace Sys2Proof.Machine

/-- Every stored word lies in the range that `GT` accepts, and is its own target (R155). -/
theorem requestedTarget_gt_toInt (w : Word) (s : State) :
    requestedTarget s (.gt w.toInt) = some w := by
  have hlow := BitVec.le_toInt w
  have hhigh := BitVec.toInt_lt (x := w)
  rw [requestedTarget, if_pos (by omega), BitVec.ofInt_toInt]

/-- `GT` of a stored word requests a move to that word (R155, R178). -/
theorem exec_gt_toInt (w : Word) (s : State) : exec (.gt w.toInt) s = .next (moveRequest w s) :=
  exec_of_requestedTarget _ s w (requestedTarget_gt_toInt w s)

/-- `Recall(k)` as a command: `GT` of the slot's steps where it is saved, nothing where it is not
(R165). -/
theorem recallSlot_eq_gt (k : Slot) (s : State) :
    (.next (recallSlot k s) : Host.Outcome State Fault Refusal) =
      if (s.slot k).saved then exec (.gt (s.slot k).steps.toInt) s else .next s := by
  rw [recallSlot, exec_gt_toInt]
  split <;> rfl

/-- Settles O15: both commands are `Recall`, of the home and of the well slot. -/
theorem recallIsGoToSavedSlot : Obligations.RecallIsGoToSavedSlot := by
  intro s
  rw [exec_gh, exec_gw]
  exact ⟨recallSlot_eq_gt .home s, recallSlot_eq_gt .well s⟩

end Sys2Proof.Machine
end

section
/-! SUPPORT. The statements of 44_commands_store_config.md: the position saved in a slot. -/

namespace Sys2Proof.Machine

/-- Saving in the home slot writes that slot alone (R169). -/
theorem saveSlot_home (s : State) :
    saveSlot .home s = { s with slotHome := { steps := s.position, saved := true } } := rfl

/-- Saving in the well slot writes that slot alone (R170). -/
theorem saveSlot_well (s : State) :
    saveSlot .well s = { s with slotWell := { steps := s.position, saved := true } } := rfl

/-- Settles O14: each command saves the position in its own slot. -/
theorem saveCommands : Obligations.SaveCommands := by
  intro s
  rw [exec_sh, exec_sw, saveSlot_home, saveSlot_well]
  exact ⟨rfl, rfl⟩

end Sys2Proof.Machine
end

section
/-! SUPPORT. The statements of 45_motion_state_machine.md: jog arbitration, the changes of mode phase by
phase, and the end of a Move on its target. -/

namespace Sys2Proof.Machine

/-! ### Jog arbitration (R180 to R183) -/

/-- A demand that is not neutral has a direction (R18). -/
theorem Demand.exists_dir {d : Demand} (h : d ≠ .neutral) : ∃ dir, d.dir? = some dir := by
  cases d with
  | neutral => exact absurd rfl h
  | left => exact ⟨_, rfl⟩
  | right => exact ⟨_, rfl⟩

/-- A demand that is not neutral starts the brake delay where it is due, then enters Jog. -/
theorem jogArbitrate_of_dir {d : Demand} {dir : Dir} (h : d.dir? = some dir) (s : State) :
    jogArbitrate d s = { enterJog (startBrake s) with direction := dir, prevDemand := d } := by
  rw [jogArbitrate, h]

/-- A neutral demand is the jog release. -/
theorem jogArbitrate_neutral (s : State) :
    jogArbitrate .neutral s = { releaseJog s with prevDemand := .neutral } := rfl

theorem startBrake_of_neutral {s : State} (h : s.prevDemand = .neutral) :
    startBrake s = { s with brakeHold := true, brakeStart := s.now } := if_pos h

theorem startBrake_of_not_neutral {s : State} (h : s.prevDemand ≠ .neutral) : startBrake s = s :=
  if_neg h

@[simp] theorem enterJog_mode (s : State) : (enterJog s).mode = .jog := by
  unfold enterJog
  split
  case h_1 h => exact h
  all_goals rfl

theorem releaseJog_of_jog {s : State} (h : s.mode = .jog) :
    releaseJog s = { s with mode := .idle, brakeHold := false } := by
  rw [releaseJog, h]

theorem releaseJog_of_not_jog {s : State} (h : s.mode ≠ .jog) : releaseJog s = s := by
  cases hm : s.mode with
  | jog => exact absurd hm h
  | idle => rw [releaseJog, hm]
  | move => rw [releaseJog, hm]

/-- Settles O31: entering Jog leaves the two brake fields as `startBrake` left them. -/
theorem brakeHoldStartsFromNeutralOnly : Obligations.BrakeHoldStartsFromNeutralOnly := by
  intro d s hd
  obtain ⟨dir, hdir⟩ := Demand.exists_dir hd
  rw [jogArbitrate_of_dir hdir]
  refine ⟨fun hprev => ?_, fun hprev => ?_⟩
  · simp [startBrake_of_neutral hprev]
  · simp [startBrake_of_not_neutral hprev]

/-- Settles O33: a neutral demand is the jog release, which acts in Jog alone. -/
theorem jogRelease : Obligations.JogRelease := by
  intro s
  rw [jogArbitrate_neutral]
  refine ⟨fun hjog => ?_, fun hjog => ?_⟩
  · rw [releaseJog_of_jog hjog]
  · rw [releaseJog_of_not_jog hjog]

/-! ### Which mode each phase leaves (R176) -/

/-- The changes of mode by a Move request (R178): into Move from elsewhere, toward a target that is not
the position, and from Move to Idle on a request for the position. -/
theorem moveRequest_mode_cases (t : Word) (s : State) :
    (moveRequest t s).mode = s.mode ∨
    (s.mode ≠ .move ∧ (moveRequest t s).mode = .move ∧ t ≠ s.position ∧
      (moveRequest t s).target = t) ∨
    (s.mode = .move ∧ (moveRequest t s).mode = .idle ∧ t = s.position) := by
  rcases moveRequest_cases t s with ⟨-, -, e⟩ | ⟨hm, ht, e⟩ | ⟨hm, ht, e⟩ | ⟨hm, ht, e⟩ |
    ⟨-, -, -, e⟩ | ⟨-, -, -, e⟩ <;> rw [e]
  · exact .inl rfl
  · exact .inr (.inl ⟨by simp [hm], rfl, ht, rfl⟩)
  · exact .inr (.inl ⟨by simp [hm], rfl, ht, rfl⟩)
  · exact .inr (.inr ⟨hm, rfl, ht⟩)
  · exact .inl rfl
  · exact .inl rfl

/-- The target `GT` asks for, in the statements' terms and in the machine's (R155). -/
theorem requestedTarget_gt (v : Int) (s : State) : requestedTarget s (.gt v) = absoluteTarget v := by
  simp only [requestedTarget, absoluteTarget, fitsWord, Bool.and_eq_true, decide_eq_true_eq,
    Int.le_sub_one_iff]

/-- The target `MR` asks for, in the statements' terms and in the machine's (R156). -/
theorem requestedTarget_mr (v : Int) (s : State) : requestedTarget s (.mr v) = relativeTarget s v :=
  requestedTarget_gt _ s

/-- `Recall` of a slot that is not saved does nothing (R165). -/
theorem recallSlot_of_not_saved {k : Slot} {s : State} (h : ¬ (s.slot k).saved = true) :
    recallSlot k s = s := if_neg h

/-- `Recall` of a saved slot is a Move request for its steps (R165). -/
theorem recallSlot_of_saved {k : Slot} {s : State} (h : (s.slot k).saved = true) :
    recallSlot k s = moveRequest (s.slot k).steps s := if_pos h

/-- `VJ` writes a ceiling at most (R167). -/
theorem exec_vj_mode {v : Nat} {s t : State} (h : exec (.vj v) s = .next t) : t.mode = s.mode := by
  simp only [exec, execVj] at h
  split at h <;> cases h <;> rfl

/-- `VM` writes a ceiling at most (R168). -/
theorem exec_vm_mode {v : Nat} {s t : State} (h : exec (.vm v) s = .next t) : t.mode = s.mode := by
  simp only [exec, execVm] at h
  split at h <;> cases h <;> rfl

/-- `ST` in Move is a request for the position, which stops there (R148, R178 case 3). -/
theorem exec_st_mode {s t : State} (h : exec .st s = .next t) :
    t.mode = s.mode ∨ (s.mode = .move ∧ t.mode = .idle) := by
  cases h
  split
  case isTrue hm => exact .inr ⟨hm, by simp_all [moveRequest, retarget]⟩
  case isFalse => exact .inl rfl

/-- A command that asks for no target leaves the mode, or is `ST` in Move. -/
theorem exec_mode_of_no_target {i : Instr} {s t : State} (hr : requestedTarget s i = none)
    (h : exec i s = .next t) : t.mode = s.mode ∨ (s.mode = .move ∧ t.mode = .idle ∧ i = .st) := by
  cases i with
  | jl | jr | js => cases h; exact .inl rfl
  | sh | sw => cases h; exact .inl (by simp)
  | vj v => exact .inl (exec_vj_mode h)
  | vm v => exact .inl (exec_vm_mode h)
  | st => exact (exec_st_mode h).imp_right fun ⟨hm, ht⟩ => ⟨hm, ht, rfl⟩
  | gt v =>
    cases h
    rw [← requestedTarget_gt v s, hr]
    exact .inl rfl
  | mr v =>
    cases h
    rw [← requestedTarget_mr, hr]
    exact .inl rfl
  | gh =>
    have hsaved : ¬ (s.slot .home).saved = true := by simpa [requestedTarget, State.slot] using hr
    cases h
    exact .inl (congrArg State.mode (recallSlot_of_not_saved hsaved))
  | gw =>
    have hsaved : ¬ (s.slot .well).saved = true := by simpa [requestedTarget, State.slot] using hr
    cases h
    exact .inl (congrArg State.mode (recallSlot_of_not_saved hsaved))

/-- The changes of mode by a command. -/
theorem exec_mode_change {i : Instr} {s t : State} (h : exec i s = .next t) (hne : t.mode ≠ s.mode) :
    (s.mode ≠ .move ∧ t.mode = .move ∧
      ∃ w, requestedTarget s i = some w ∧ w ≠ s.position ∧ t.target = w) ∨
    (s.mode = .move ∧ t.mode = .idle ∧ (i = .st ∨ requestedTarget s i = some s.position)) := by
  cases hr : requestedTarget s i with
  | none =>
    obtain ⟨hm, ht, hi⟩ := (exec_mode_of_no_target hr h).resolve_left hne
    exact .inr ⟨hm, ht, .inl hi⟩
  | some w =>
    rw [exec_of_requestedTarget i s w hr] at h
    cases h
    obtain ⟨hm, ht, hw, htarget⟩ | ⟨hm, ht, rfl⟩ := (moveRequest_mode_cases w s).resolve_left hne
    · exact .inl ⟨hm, ht, w, rfl, hw, htarget⟩
    · exact .inr ⟨hm, ht, .inr rfl⟩

/-- The changes of mode by a recall: those of a Move request for a saved slot's steps (R165). -/
theorem recallSlot_mode_change {k : Slot} {s : State} (hne : (recallSlot k s).mode ≠ s.mode) :
    (s.slot k).saved = true ∧
    ((s.mode ≠ .move ∧ (recallSlot k s).mode = .move ∧ (s.slot k).steps ≠ s.position ∧
        (recallSlot k s).target = (s.slot k).steps) ∨
      (s.mode = .move ∧ (recallSlot k s).mode = .idle ∧ (s.slot k).steps = s.position)) := by
  by_cases hsaved : (s.slot k).saved = true
  · rw [recallSlot_of_saved hsaved] at hne ⊢
    exact ⟨hsaved, (moveRequest_mode_cases (s.slot k).steps s).resolve_left hne⟩
  · rw [recallSlot_of_not_saved hsaved] at hne
    exact absurd rfl hne

/-- The changes of mode by a position button: those of a recall, on a tap (R131, R132). -/
theorem serveButton_mode_change {k : Slot} {sample : Bool} {s : State}
    (hne : (serveButton k sample s).mode ≠ s.mode) :
    (debounce s.params sample s.now (s.btn k)).2 = some .tap ∧ (s.slot k).saved = true ∧
    ((s.mode ≠ .move ∧ (serveButton k sample s).mode = .move ∧ (s.slot k).steps ≠ s.position ∧
        (serveButton k sample s).target = (s.slot k).steps) ∨
      (s.mode = .move ∧ (serveButton k sample s).mode = .idle ∧
        (s.slot k).steps = s.position)) := by
  cases hev : (debounce s.params sample s.now (s.btn k)).2 with
  | none =>
    rw [serveButton_of_event hev] at hne
    exact absurd (setBtn_mode ..) hne
  | some ev =>
    rw [serveButton_of_event hev] at hne ⊢
    cases ev with
    | longPress => exact absurd (by simp [applyRelease]) hne
    | tap =>
      rw [applyRelease] at hne ⊢
      have hrecall := recallSlot_mode_change (hne.trans_eq (setBtn_mode ..).symm)
      exact ⟨rfl, by simpa using hrecall⟩

/-- The mode jog arbitration leaves on a demand (R181). -/
theorem jogArbitrate_mode_of_ne_neutral {d : Demand} (h : d ≠ .neutral) (s : State) :
    (jogArbitrate d s).mode = .jog := by
  obtain ⟨dir, hdir⟩ := Demand.exists_dir h
  rw [jogArbitrate_of_dir hdir]
  exact enterJog_mode _

/-- The changes of mode by jog arbitration (R181, R182). -/
theorem jogArbitrate_mode_change {d : Demand} {s : State} (hne : (jogArbitrate d s).mode ≠ s.mode) :
    (d ≠ .neutral ∧ (jogArbitrate d s).mode = .jog) ∨
    (d = .neutral ∧ s.mode = .jog ∧ (jogArbitrate d s).mode = .idle) := by
  by_cases hd : d = .neutral
  · subst hd
    obtain ⟨hrelease, hkeep⟩ := jogRelease s
    by_cases hjog : s.mode = .jog
    · exact .inr ⟨rfl, hjog, by rw [hrelease hjog]⟩
    · exact absurd (by rw [hkeep hjog]) hne
  · exact .inl ⟨hd, jogArbitrate_mode_of_ne_neutral hd s⟩

/-- The reversal flip clears `reversing` only at the start floor (R203). -/
theorem flipAtFloor_reversing_change {s : State} (h : (flipAtFloor s).reversing ≠ s.reversing) :
    s.currentSpeed.toNat ≤ s.params.vStart := by
  unfold flipAtFloor at h
  split at h
  case isTrue hv => exact hv
  case isFalse => exact absurd rfl h

/-- The profile clears `reversing` only in a reversing Move that is down to the start floor (R203). -/
theorem profile_reversing_change {dt : Nat} {s : State} (h : (profile dt s).reversing ≠ s.reversing) :
    s.mode = .move ∧ s.reversing = true ∧ (profile dt s).currentSpeed.toNat ≤ s.params.vStart := by
  unfold profile at h ⊢
  split at h
  case h_1 => exact absurd rfl h
  case h_2 => split at h <;> exact absurd rfl h
  case h_3 hm =>
    split at h
    case isTrue hr =>
      simpa [hm, hr] using flipAtFloor_reversing_change h
    case isFalse => split at h <;> exact absurd rfl h

theorem emit_of_idle {s : State} (h : s.mode = .idle) : emit s = s := if_pos h

/-- The emitter leaves the mode, or ends on its target a Move that is not reversing (R226). -/
theorem emit_mode_cases (s : State) :
    (emit s).mode = s.mode ∨
    (s.mode = .move ∧ s.reversing = false ∧ (emit s).mode = .idle ∧ (emit s).position = s.target) := by
  unfold emit
  split
  · exact .inl rfl
  · split
    · exact .inl rfl
    · unfold emitRunning
      split
      · exact .inl (by simp)
      · simpa using pulseLoop_mode (interval (releaseBrake s)) s.params.nMaxPulses (releaseBrake s)

/-- The gate changes the mode by a trip alone (R240, R241). -/
theorem safetyGate_mode_change {estop : Bool} {s : State}
    (h : (safetyGate estop s).1.mode ≠ s.mode) :
    estop = true ∧ (safetyGate estop s).1.mode = .idle := by
  cases estop with
  | true => exact ⟨rfl, rfl⟩
  | false => exact absurd (by simp [safetyGate]) h

/-- Settles O49, phase by phase. -/
theorem modeChangesOnlyByTable : Obligations.ModeChangesOnlyByTable :=
  ⟨fun _ _ _ => exec_mode_change, fun _ _ _ => serveButton_mode_change,
    fun _ _ => jogArbitrate_mode_change,
    fun _ _ => ⟨by simp, profile_reversing_change⟩,
    fun s => (emit_mode_cases s).resolve_left, fun _ _ => safetyGate_mode_change⟩

/-! ### A Move ends on its target (R186) -/

/-- How a tick that began in Move stands before phase 4: in Move, or stopped on its target. -/
def MoveOrOnTarget (s : State) : Prop :=
  s.mode = .move ∨ (s.mode = .idle ∧ s.position = s.target)

namespace MoveOrOnTarget

variable {s t : State}

/-- The mode, the position and the target decide it. -/
theorem of_frame (h : MoveOrOnTarget s) (hm : t.mode = s.mode) (hx : t.position = s.position)
    (ht : t.target = s.target) : MoveOrOnTarget t := by
  rwa [MoveOrOnTarget, hm, hx, ht]

theorem moveRequest (h : MoveOrOnTarget s) (w : Word) : MoveOrOnTarget (moveRequest w s) := by
  rcases moveRequest_cases w s with ⟨-, -, e⟩ | ⟨-, -, e⟩ | ⟨-, -, e⟩ | ⟨-, hw, e⟩ | ⟨hm, -, -, e⟩ |
    ⟨hm, -, -, e⟩ <;> rw [e]
  · exact h
  · exact .inl rfl
  · exact .inl rfl
  · exact .inr ⟨rfl, hw.symm⟩
  · exact .inl hm
  · exact .inl hm

theorem exec {i : Instr} (h : MoveOrOnTarget s) (he : exec i s = .next t) : MoveOrOnTarget t := by
  obtain ⟨u, hu, hc⟩ := exec_cases i s
  rw [hu] at he
  obtain rfl : u = t := by simpa using he
  rcases hc with rfl | ⟨w, rfl⟩ | ⟨k, rfl⟩ | ⟨l, r, -, rfl⟩ | rfl | ⟨v, -, -, rfl | rfl⟩
  · exact h
  · exact h.moveRequest w
  · exact h.of_frame (by simp) (by simp) (by simp)
  · exact h
  · exact (show MoveOrOnTarget (setRemoteJog false false s) from h).moveRequest _
  · exact h
  · exact h

theorem runLines {ls : List Line} (h : MoveOrOnTarget s) (hr : runLines ls s = .next t) :
    MoveOrOnTarget t :=
  runLines_induct (fun _ _ _ hs he => hs.exec he) ls s t h hr

theorem serveButton (h : MoveOrOnTarget s) (k : Slot) (sample : Bool) :
    MoveOrOnTarget (serveButton k sample s) :=
  have hb : MoveOrOnTarget (s.setBtn k (debounce s.params sample s.now (s.btn k)).1) :=
    h.of_frame (by simp) (by simp) (by simp)
  applyRelease_of_ops k _ hb hb.moveRequest (hb.of_frame (by simp) (by simp) (by simp))

theorem arbiter (h : MoveOrOnTarget s) (inp : Levels) : MoveOrOnTarget (arbiter inp s) :=
  (h.serveButton _ _).serveButton _ _

/-- Phase 4 enters Jog, or has nothing to release. -/
theorem jogArbitrate (h : MoveOrOnTarget s) (d : Demand) :
    (jogArbitrate d s).mode = .jog ∨ MoveOrOnTarget (jogArbitrate d s) := by
  by_cases hd : d = .neutral
  · subst hd
    have hjog : s.mode ≠ .jog := by rcases h with hm | ⟨hm, -⟩ <;> simp [hm]
    rw [(jogRelease s).2 hjog]
    exact .inr h
  · exact .inl (jogArbitrate_mode_of_ne_neutral hd s)

/-- Where phase 6 leaves Idle, it found it on the target, or it ended a Move there (R226). -/
theorem emit_position_eq_target (h : s.mode = .jog ∨ MoveOrOnTarget s) (hidle : (emit s).mode = .idle) :
    (emit s).position = (emit s).target := by
  have htarget : (emit s).target = s.target := by simp
  rw [htarget]
  rcases emit_mode_cases s with hm | ⟨-, -, -, hx⟩
  · obtain ⟨hs, hx⟩ : s.mode = .idle ∧ s.position = s.target := by
      rw [hidle] at hm
      simpa [MoveOrOnTarget, ← hm] using h
    rwa [emit_of_idle hs]
  · exact hx

/-- Where phases 4 to 6 leave Idle, they leave it on the target. -/
theorem motionPhases_position_eq_target (h : MoveOrOnTarget s) (inp : Levels) (dt : Nat)
    (hidle : (motionPhases inp dt s).mode = .idle) :
    (motionPhases inp dt s).position = (motionPhases inp dt s).target :=
  emit_position_eq_target ((h.jogArbitrate _).imp (fun hm => by simpa using hm)
    fun hj => hj.of_frame (by simp) (by simp) (by simp)) hidle

end MoveOrOnTarget

/-- Settles O51: a trip collapses the target onto the position, a closed gate leaves the Move, and an
open gate's phases keep `MoveOrOnTarget` up to the motion phases. -/
theorem moveEndsOnTarget : Obligations.MoveEndsOnTarget := by
  intro s t now inp rest hscript hmove hstep hidle
  obtain ⟨-, ⟨hs, -⟩ | ⟨bytes, rest', hs, -⟩ | ⟨rest', hs, -⟩ | ⟨now', inp', rest', -, -, hc⟩⟩ :=
    step_cases hstep
  · cases hscript.symm.trans hs
  · cases hscript.symm.trans hs
  · cases hscript.symm.trans hs
  · rcases hc with ⟨-, rfl⟩ | ⟨-, -, rfl⟩ | ⟨-, u, hu, rfl⟩
    · rfl
    · cases hmove.symm.trans hidle
    · have hopen : MoveOrOnTarget (opened now' inp' rest' s) := .inl hmove
      exact ((hopen.arbiter inp').runLines hu).motionPhases_position_eq_target inp' _ hidle

end Sys2Proof.Machine
end

section
/-! SUPPORT. The statement of 47_step_pulse_emitter.md about the exact stop (R226). -/

namespace Sys2Proof.Machine

/-- A Move knows no brake hold, so the emitter goes straight to emission (R220). -/
theorem emit_of_move {s : State} (hm : s.mode = .move) : emit s = emitRunning s := by
  simp [emit, held, releaseBrake, hm]

/-- Emission below the minimum runnable speed (R217). -/
theorem emitRunning_of_slow {s : State} (hv : s.currentSpeed.toNat < s.params.vMinRun) :
    emitRunning s = { s with nextStepDeadline := s.now } := if_pos hv

/-- Emission at a runnable speed (R221, R227). -/
theorem emitRunning_of_runnable {s : State} (hv : ¬ s.currentSpeed.toNat < s.params.vMinRun) :
    emitRunning s = dropBacklog (interval s) (pulseLoop (interval s) s.params.nMaxPulses s) :=
  if_neg hv

/-- `pulseLoop_arrival` for the whole phase: the number of pulses is the length of the trace. -/
theorem emit_arrival {s : State} (ht : s.trace = []) (hm : s.mode = .move)
    (hr : s.reversing = false) :
    (∀ k : Nat, 1 ≤ k → k < (emit s).trace.length →
      wrap64 (s.position.toInt + k * s.direction.val) ≠ s.target) ∧
    (((emit s).mode = .move ∧ (1 ≤ (emit s).trace.length →
        wrap64 (s.position.toInt + (emit s).trace.length * s.direction.val) ≠ s.target)) ∨
      ((emit s).mode = .idle ∧ 1 ≤ (emit s).trace.length)) := by
  rw [emit_of_move hm]
  by_cases hv : s.currentSpeed.toNat < s.params.vMinRun
  · rw [emitRunning_of_slow hv]
    simp [ht, hm]
  · obtain ⟨m, -, htrace, hearlier, hlast⟩ :=
      pulseLoop_arrival (interval s) s.params.nMaxPulses s hm hr
    have hlen : (emitRunning s).trace.length = m := by
      simp [emitRunning_of_runnable hv, htrace, ht]
    have hmode : (emitRunning s).mode =
        (pulseLoop (interval s) s.params.nMaxPulses s).mode := by
      simp [emitRunning_of_runnable hv]
    rw [hlen, hmode]
    exact ⟨hearlier, hlast.imp_right fun ⟨hidle, hpos, _⟩ => ⟨hidle, hpos⟩⟩

/-- The emitter leaves the mode of anything but a Move that is not reversing (R226). -/
theorem emit_mode_of_no_test {s : State} (h : ¬ (s.mode = .move ∧ s.reversing = false)) :
    (emit s).mode = s.mode :=
  (emit_mode_cases s).resolve_right fun ⟨hm, hr, _⟩ => h ⟨hm, hr⟩

/-- Settles O42: pulse by pulse by `emit_arrival`, the position of the stop by `emit_mode_cases`. -/
theorem emitStopsExactlyOnTarget : Obligations.EmitStopsExactlyOnTarget := by
  intro s ht
  refine ⟨fun hm hr => ?_, fun hm hr => ?_, fun hj => ?_, by simp, by simp, by simp⟩
  · obtain ⟨hearlier, ⟨hmove, hlast⟩ | ⟨hidle, hpos⟩⟩ := emit_arrival ht hm hr
    · refine ⟨fun hidle => by simp [hmove] at hidle, fun _ => ⟨hmove, fun k hk hle => ?_⟩⟩
      obtain hlt | rfl := Nat.lt_or_eq_of_le hle
      · exact hearlier k hk hlt
      · exact hlast hk
    · obtain ⟨-, -, -, htarget⟩ := (emit_mode_cases s).resolve_left (by simp [hidle, hm])
      exact ⟨fun _ => ⟨htarget, List.ne_nil_of_length_pos hpos, hearlier⟩,
        fun hne => absurd hidle hne⟩
  · rw [emit_mode_of_no_test (by simp [hr]), hm]
  · rw [emit_mode_of_no_test (by simp [hj]), hj]

end Sys2Proof.Machine
end

section
/-! SUPPORT. The statements of 30_encoding.md about whole lines: the encoder's lines decode, what decodes
is well-formed and printable, and how the byte stream is cut into lines. -/

namespace Sys2Proof.Machine

/-! ### The decoder on the encoder's lines (R82 to R95) -/

/-- Opcodes are two bytes (R90). -/
theorem opcode16_lt (i : Instr) : i.opcode16 < 65536 := by
  cases i <;> simp [Instr.opcode16]

/-- An opcode's two bytes and an argument within the limit are decoded by that opcode (R82, R90). -/
theorem decodeLine_opcodeBytes {lineMax op : Nat} {arg : List Byte} (hop : op < 65536)
    (hfit : arg.length + 2 ≤ lineMax) :
    decodeLine lineMax (opcodeBytes op ++ arg) = decodeOp op arg := by
  have hbytes : (BitVec.ofNat 8 (op / 256)).toNat * 256 + (BitVec.ofNat 8 op).toNat = op := by
    simp only [BitVec.toNat_ofNat]; omega
  calc decodeLine lineMax (opcodeBytes op ++ arg)
      = decodeOp ((BitVec.ofNat 8 (op / 256)).toNat * 256 + (BitVec.ofNat 8 op).toNat) arg :=
        decodeLine_of_fits hfit _ _
    _ = decodeOp op arg := by rw [hbytes]

/-- The decoder reads a command's argument text under the command's opcode (R90, R95). -/
theorem decodeOp_argText (i : Instr) : decodeOp i.opcode16 i.argText = some i := by
  cases i with
  | gt v | mr v => simp [decodeOp, Instr.opcode16, Instr.argText, intValue_intText]
  | vj v | vm v => simp [decodeOp, Instr.opcode16, Instr.argText, uspsValue_uspsText]
  | jl | jr | js | st | gh | gw | sh | sw => rfl

/-- Settles O2: a well-formed command's line is within the limit (`encode_length_le`), so it is decoded
by its opcode, under which its argument text reads back. -/
theorem decodeOfEncode : Obligations.DecodeOfEncode := by
  intro lineMax i hwf
  have hlen := encode_length_le hwf
  rw [encode, List.length_append] at hlen
  rw [encode, decodeLine_opcodeBytes (opcode16_lt i) (by rwa [Nat.add_comm] at hlen)]
  exact decodeOp_argText i

/-! ### What a line that decodes is (R82 to R95) -/

/-- What decodes is well-formed under every limit that the line fits (R82, R86, R88). -/
theorem decodeOp_wellFormed {op lineMax : Nat} {arg : List Byte} {i : Instr}
    (h : decodeOp op arg = some i) (hfit : arg.length + 2 ≤ lineMax) :
    i.wellFormed lineMax = true := by
  obtain ⟨-, harg⟩ := decodeOp_cases h
  have htwo : decide (2 ≤ lineMax) = true := decide_eq_true (by omega)
  have hrest : arg.length ≤ lineMax - 2 := by omega
  cases i with
  | gt v | mr v => exact Bool.and_eq_true_iff.2 ⟨htwo, intValue_fits harg hrest⟩
  | vj v | vm v => exact Bool.and_eq_true_iff.2 ⟨htwo, uspsValue_fits harg hrest⟩
  | jl | jr | js | st | gh | gw | sh | sw => exact htwo

/-- Settles O3: the command is well-formed under the limit, and also under the length of the line itself,
within which the encoder then stays. -/
theorem decodedIsWellFormedAndEncodeShortest : Obligations.DecodedIsWellFormedAndEncodeShortest := by
  intro lineMax b i h
  obtain ⟨b0, b1, arg, rfl, hfit, hop⟩ := decodeLine_some h
  exact ⟨decodeOp_wellFormed hop hfit, encode_length_le (decodeOp_wellFormed hop le_rfl)⟩

/-- Under the opcode of a command without an argument nothing but the empty argument decodes (R84). -/
theorem decodeOp_bare {op : Nat} {arg : List Byte} {i : Instr}
    (hop : op ∈ [0x4A4C, 0x4A52, 0x4A53, 0x5354, 0x4748, 0x4757, 0x5348, 0x5357])
    (h : decodeOp op arg = some i) : arg = [] := by
  obtain ⟨rfl, harg⟩ := decodeOp_cases h
  cases i with
  | gt v | mr v | vj v | vm v => simp [Instr.opcode16] at hop
  | jl | jr | js | st | gh | gw | sh | sw => exact harg

/-- The two bytes of an opcode are capital letters (R90). -/
theorem opcode16_letters (i : Instr) :
    (0x41 ≤ i.opcode16 / 256 ∧ i.opcode16 / 256 ≤ 0x5A) ∧
      (0x41 ≤ i.opcode16 % 256 ∧ i.opcode16 % 256 ≤ 0x5A) := by
  cases i <;> simp [Instr.opcode16]

/-- An argument that decodes has no blank, control or high byte (R85, R93). -/
theorem printable_of_decodeOp {op : Nat} {arg : List Byte} {i : Instr} (h : decodeOp op arg = some i) :
    ∀ x ∈ arg, 0x20 < x.toNat ∧ x.toNat < 0x7F := by
  obtain ⟨-, harg⟩ := decodeOp_cases h
  cases i with
  | gt v | mr v => exact printable_of_int harg
  | vj v | vm v => exact printable_of_usps harg
  | jl | jr | js | st | gh | gw | sh | sw =>
    obtain rfl : arg = [] := harg
    simp

/-- A line that decodes has no blank, control or high byte (R85, R93). -/
theorem printable_of_decodeLine {lineMax : Nat} {b : Line} {i : Instr}
    (h : decodeLine lineMax b = some i) : ∀ x ∈ b, 0x20 < x.toNat ∧ x.toNat < 0x7F := by
  obtain ⟨b0, b1, arg, rfl, -, hop⟩ := decodeLine_some h
  obtain ⟨heq, -⟩ := decodeOp_cases hop
  have hletters := opcode16_letters i
  have hb0 := b0.isLt
  have hb1 := b1.isLt
  intro x hx
  obtain rfl | hx := List.mem_cons.1 hx
  · omega
  obtain rfl | hx := List.mem_cons.1 hx
  · omega
  · exact printable_of_decodeOp hop x hx

/-- Settles O5: what decodes under a bare opcode has no argument, every line that decodes is printable,
and none is longer than the limit. -/
theorem trailingTextAndBlanksUnrecognised : Obligations.TrailingTextAndBlanksUnrecognised := by
  refine ⟨fun lineMax op b0 b1 x arg hop hmem => ?_, fun lineMax b x hx hbad => ?_,
    fun lineMax b hlong => if_pos hlong⟩
  · rw [Option.eq_none_iff_forall_ne_some]
    intro i h
    obtain ⟨c0, c1, arg', hb, -, hdec⟩ := decodeLine_some h
    cases hb
    rw [hop] at hdec
    exact absurd (decodeOp_bare hmem hdec) (List.cons_ne_nil _ _)
  · rw [Option.eq_none_iff_forall_ne_some]
    intro i h
    have := printable_of_decodeLine h x hx
    omega

/-- A greater line limit takes no command away (R82). -/
theorem decodeLine_mono {m n : Nat} {b : Line} {i : Instr} (h : decodeLine m b = some i) (hmn : m ≤ n) :
    decodeLine n b = some i := by
  obtain ⟨b0, b1, arg, rfl, hfit, hop⟩ := decodeLine_some h
  rw [decodeLine_of_fits (by omega), hop]

/-- Settles O1: the lines decode under a limit of seven bytes, and so under every greater one. -/
theorem exampleLinesDecode : Obligations.ExampleLinesDecode := by
  intro lineMax hmax
  have atLimit {b : Line} {i : Instr} (h : decodeLine 7 b = some i) : decodeLine lineMax b = some i :=
    decodeLine_mono h hmax
  exact ⟨atLimit (by decide), atLimit (by decide), atLimit (by decide), atLimit (by decide),
    atLimit (by decide), atLimit (by decide), atLimit (by decide), atLimit (by decide),
    atLimit (by decide), atLimit (by decide), atLimit (by decide), atLimit (by decide)⟩

/-! ### Framing (R81) -/

/-- The two terminators. -/
theorem isTerminator_iff (b : Byte) : isTerminator b = true ↔ b = 0x0A#8 ∨ b = 0x0D#8 := by
  simp [isTerminator]

/-- Framing two pieces of the stream: the second goes on from the bytes the first leaves waiting. -/
theorem frameBytes_append (cur xs ys : List Byte) :
    frameBytes cur (xs ++ ys) =
      ((frameBytes cur xs).1 ++ (frameBytes (frameBytes cur xs).2 ys).1,
        (frameBytes (frameBytes cur xs).2 ys).2) := by
  induction xs generalizing cur with
  | nil => rfl
  | cons b xs ih =>
    rw [List.cons_append, frameBytes, frameBytes]
    split
    · rw [ih]; rfl
    · exact ih _

/-- Bytes with no terminator among them wait. -/
theorem frameBytes_of_clean {l : List Byte} (hl : lineClean l = true) (cur : List Byte) :
    frameBytes cur l = ([], cur ++ l) := by
  induction l generalizing cur with
  | nil => simp [frameBytes]
  | cons b l ih =>
    obtain ⟨hb, hl⟩ := Bool.and_eq_true_iff.1 hl
    rw [frameBytes, if_neg (by simpa using hb), ih hl, List.append_assoc, List.singleton_append]

/-- A terminator ends the waiting line. -/
theorem frameBytes_cons_terminator {t : Byte} (ht : t = 0x0A#8 ∨ t = 0x0D#8) (cur rest : List Byte) :
    frameBytes cur (t :: rest) = (cur :: (frameBytes [] rest).1, (frameBytes [] rest).2) :=
  if_pos ((isTerminator_iff t).2 ht)

/-- Settles O6: the bytes before the terminator wait, and the terminator hands them over. -/
theorem terminatorEndsOneLine : Obligations.TerminatorEndsOneLine := by
  have waits : ∀ cur l : List Byte, 0x0A#8 ∉ l → 0x0D#8 ∉ l → frameBytes cur l = ([], cur ++ l) :=
    fun cur l hlf hcr => frameBytes_of_clean ((lineClean_iff l).2 ⟨hlf, hcr⟩) cur
  refine ⟨fun cur l rest t hlf hcr ht => ?_, waits, lineClean_iff⟩
  rw [frameBytes_append, waits cur l hlf hcr, frameBytes_cons_terminator ht]
  rfl

/-- Settles O7: the queue and the waiting bytes are what `frameBytes` makes of the stream. -/
theorem framingIgnoresArrivalCuts : Obligations.FramingIgnoresArrivalCuts := by
  intro s xs ys
  simp only [receive, frameBytes_append, List.append_assoc]

end Sys2Proof.Machine
end

section
/-! SUPPORT. The statements of 40_tick_sequence.md and 60_exceptions.md: when a step is defined, and the
whole tick in each of its three kinds: trip, closed gate, open gate. -/

namespace Sys2Proof.Machine

/-! ### The steps that are no tick (R10, R12, R81, R265) -/

/-- An illegal configuration refuses every step (R10). -/
theorem step_of_illegal {s : State} (h : s.params.legal = false) : step s = .refused .illegalConfig := by
  simp [step, runScript, h]

/-- A step under a legal configuration runs the next event of the script (R12). -/
theorem step_of_event {s : State} {e : Event} {rest : List Event} (hl : s.params.legal = true)
    (hs : s.script = e :: rest) : step s = runEvent e { s with script := rest } := by
  rw [step, runScript, if_pos hl, hs]

/-- Settles O19: the script's head decides, and each event's effect is written out in `runEvent`. -/
theorem stepsThatAreNoTick : Obligations.StepsThatAreNoTick := by
  intro s
  refine ⟨step_of_illegal, fun hl hs => ?_, fun hl bytes rest hs => step_of_event hl hs,
    fun hl rest hs => step_of_event hl hs⟩
  rw [step, runScript, if_pos hl, hs]

/-! ### When a tick is defined (R10, R275) -/

/-- A defined tick answers a next state (R120, R236). -/
theorem step_of_tickDefined {now : Word} {inp : Levels} {rest : List Event} {s : State}
    (hs : NextIsTick now inp rest s) (hd : TickDefined now s) : ∃ t, step s = .next t := by
  have hnone : tickRefusal now s.lineQueue { s with script := rest, lineQueue := [] } = none :=
    (tickRefusal_none_iff now s hd.1).2 hd
  rw [step_tick hs, if_pos hd.1, tick, hnone]
  dsimp only
  split
  · obtain ⟨u, hu⟩ := runLines_total s.lineQueue (arbiter inp (safetyGate inp.estop
      (sampleInputs now inp { s with script := rest, lineQueue := [] })).1)
    exact ⟨_, by rw [hu]; rfl⟩
  · exact ⟨_, rfl⟩

/-- Everything a tick that answers a next state can have done: a trip, a closed gate, an open gate. -/
theorem step_tick_cases {now : Word} {inp : Levels} {rest : List Event} {s t : State}
    (hs : NextIsTick now inp rest s) (h : step s = .next t) :
    TickDefined now s ∧
      ((inp.estop = true ∧
          t = endTick (trip (sampleInputs now inp { s with script := rest, lineQueue := [] }))) ∨
        (inp.estop = false ∧ ¬ GateOpens now inp s ∧ t = endTick (opened now inp rest s)) ∨
        (GateOpens now inp s ∧ ∃ u,
          runLines s.lineQueue (arbiter inp (opened now inp rest s)) = .next u ∧
          t = endTick (motionPhases inp (now.toNat - s.lastTickTime.toNat) u))) := by
  obtain ⟨-, ⟨he, -⟩ | ⟨bytes, rest', he, -⟩ | ⟨rest', he, -⟩ | ⟨now', inp', rest', he, hc⟩⟩ :=
    step_cases h
  · cases hs.symm.trans he
  · cases hs.symm.trans he
  · cases hs.symm.trans he
  · cases hs.symm.trans he
    exact hc

/-- The reason a tick is refused for is a precondition that it breaks (R275). -/
theorem tickRefusal_some {now : Word} {s : State} {r : Refusal}
    (h : tickRefusal now s.lineQueue s = some r) :
    (r = .timeBackwards ∧ now.toNat < s.lastTickTime.toNat) ∨
      (r = .timeOutOfRange ∧ 2 ^ 63 ≤ now.toNat) ∨
      (r = .terminatorInLine ∧ s.lineQueue.all lineClean = false) := by
  unfold tickRefusal at h
  split at h
  case isTrue hback => exact .inl ⟨by cases h; rfl, hback⟩
  case isFalse =>
    split at h
    case isTrue hrange => exact .inr (.inl ⟨by cases h; rfl, hrange⟩)
    case isFalse =>
      split at h
      case isTrue hline =>
        refine .inr (.inr ⟨by cases h; rfl, ?_⟩)
        simpa [lineClean] using hline
      case isFalse => cases h

/-- Settles O18: a tick is refused exactly where `tickRefusal` names a reason, and past that test nothing
refuses; the type of faults is empty. -/
theorem tickRefusedExactlyWhenUndefined : Obligations.TickRefusedExactlyWhenUndefined := by
  intro s now inp rest hs
  refine ⟨⟨fun ⟨t, ht⟩ => (step_tick_cases hs ht).1, step_of_tickDefined hs⟩, nofun, fun r hr => ?_⟩
  by_cases hl : s.params.legal = true
  · cases href : tickRefusal now s.lineQueue s with
    | none =>
      obtain ⟨t, ht⟩ := step_of_tickDefined hs ((tickRefusal_none_iff now s hl).1 href)
      cases ht.symm.trans hr
    | some r' =>
      have hrefused : step s = .refused r' := by
        have href' : tickRefusal now s.lineQueue { s with script := rest, lineQueue := [] } = some r' :=
          href
        rw [step_tick hs, if_pos hl, tick, href']
      cases hrefused.symm.trans hr
      exact .inr (tickRefusal_some href)
  · rw [Bool.not_eq_true] at hl
    cases (step_of_illegal hl).symm.trans hr
    exact .inl ⟨rfl, hl⟩

/-! ### The three kinds of tick (R119, R240 to R243) -/

section

variable {now : Word} {inp : Levels} {rest : List Event} {s : State}

/-- A tick that trips (R240, R243). -/
theorem step_of_trip (hs : NextIsTick now inp rest s) (hd : TickDefined now s) (he : inp.estop = true) :
    step s =
      .next (endTick (trip (sampleInputs now inp { s with script := rest, lineQueue := [] }))) := by
  obtain ⟨t, ht⟩ := step_of_tickDefined hs hd
  obtain ⟨-, ⟨-, rfl⟩ | ⟨he', -, -⟩ | ⟨⟨he', -⟩, -⟩⟩ := step_tick_cases hs ht
  · exact ht
  · cases he.symm.trans he'
  · cases he.symm.trans he'

/-- A tick with no trip and a closed gate (R241 to R243). -/
theorem step_of_closed (hs : NextIsTick now inp rest s) (hd : TickDefined now s) (he : inp.estop = false)
    (hg : ¬ GateOpens now inp s) : step s = .next (endTick (opened now inp rest s)) := by
  obtain ⟨t, ht⟩ := step_of_tickDefined hs hd
  obtain ⟨-, ⟨he', -⟩ | ⟨-, -, rfl⟩ | ⟨hg', -⟩⟩ := step_tick_cases hs ht
  · cases he.symm.trans he'
  · exact ht
  · exact absurd hg' hg

/-- A tick with an open gate (R112 to R117). -/
theorem step_of_open (hs : NextIsTick now inp rest s) (hd : TickDefined now s) (hg : GateOpens now inp s) :
    ∃ u, runLines s.lineQueue (arbiter inp (opened now inp rest s)) = .next u ∧
      step s = .next (endTick (motionPhases inp (now.toNat - s.lastTickTime.toNat) u)) := by
  obtain ⟨t, ht⟩ := step_of_tickDefined hs hd
  obtain ⟨-, ⟨he, -⟩ | ⟨-, hg', -⟩ | ⟨-, u, hu, rfl⟩⟩ := step_tick_cases hs ht
  · cases he.symm.trans hg.1
  · exact absurd hg hg'
  · exact ⟨u, hu, ht⟩

end

/-- Settles O24: `trip` and `sampleInputs` are written out field by field. -/
theorem tripTick : Obligations.TripTick := by
  intro s now inp rest hs hd he
  refine ⟨_, step_of_trip hs hd he, Bool.false_xor _, ?_⟩
  simp only [endTick, trip, sampleInputs, he]

/-- Settles O25: with no trip a closed gate leaves what `opened` writes. -/
theorem settlingTick : Obligations.SettlingTick := by
  intro s now inp rest hs hd he hg
  rw [step_of_closed hs hd he hg]
  simp only [endTick, opened, he]

/-- Settles O26: neither a trip nor a closed gate reads the queue or any level but E-stop's. -/
theorem closedGateHidesCommandsAndButtons : Obligations.ClosedGateHidesCommandsAndButtons := by
  intro s now inp inp' rest lines hs hd hlines he hg
  have ⟨hl, hmono, hrange, _⟩ := hd
  have hd' : TickDefined now { s with lineQueue := lines, script := .tick now inp' :: rest } :=
    ⟨hl, hmono, hrange, hlines⟩
  cases htrip : inp.estop with
  | true =>
    rw [step_of_trip hs hd htrip, step_of_trip rfl hd' (he.trans htrip)]
    simp only [sampleInputs, he]
  | false =>
    have hg' : ¬ GateOpens now inp' { s with lineQueue := lines, script := .tick now inp' :: rest } :=
      fun h => hg ⟨htrip, h.2⟩
    rw [step_of_closed hs hd htrip hg, step_of_closed rfl hd' (he.trans htrip) hg']
    simp only [opened, he]

/-! ### Phase 3 inside the tick (R113) -/

/-- Phase 3 leaves the time of the tick, the position and the trace. -/
theorem runLines_keeps {ls : List Line} {s t : State} (h : runLines ls s = .next t) :
    t.now = s.now ∧ t.position = s.position ∧ t.trace = s.trace := by
  refine runLines_induct (P := fun u => u.now = s.now ∧ u.position = s.position ∧ u.trace = s.trace)
    (fun i u v ⟨hnow, hpos, htrace⟩ he => ?_) ls s t ⟨rfl, rfl, rfl⟩ h
  obtain ⟨-, hpos', hnow', -, -, -, -, -, -, -, -, -, -, htrace', -⟩ := exec_keeps he
  exact ⟨hnow'.trans hnow, hpos'.trans hpos, htrace'.trans htrace⟩

/-- Phase 7 records the time of the tick (R117). -/
theorem endTick_of_now {s : State} {now : Word} (h : s.now = now) :
    endTick s = { s with lastTickTime := now } := by
  subst h; rfl

/-- Settles O20: the open-gate tick, with phase 2 and phases 4 to 7 written out. -/
theorem openTickRunsPhasesInOrder : Obligations.OpenTickRunsPhasesInOrder := by
  intro s now inp rest hs hd hg
  obtain ⟨u, hu, hstep⟩ := step_of_open hs hd hg
  refine ⟨u, hu, ?_⟩
  have hnow : u.now = now := by
    obtain ⟨hn, -⟩ := runLines_keeps hu
    simpa [opened] using hn
  rw [hstep, endTick_of_now (by simpa using hnow)]
  rfl

/-- One line that decodes runs its command (R113). -/
theorem runLines_singleton {l : Line} {i : Instr} {s : State}
    (h : decodeLine s.params.lineMax l = some i) : runLines [l] s = exec i s := by
  obtain ⟨t, ht, -⟩ := exec_cases i s
  rw [runLines_cons_of_some h, ht]
  rfl

/-- Settles O22: `runLines_append` and `runLines_singleton`. -/
theorem linesRunInArrivalOrder : Obligations.LinesRunInArrivalOrder :=
  ⟨runLines_append, fun _ _ _ => runLines_singleton⟩

/-- Settles O21: phase 3 of O20's tick on the one line, which is decoded under the same limit. -/
theorem stepRunsDecodedCommand : Obligations.StepRunsDecodedCommand := by
  intro s now inp rest l i hs hq hd hg hdec
  obtain ⟨u, hu, hstep⟩ := openTickRunsPhasesInOrder s now inp rest hs hd hg
  rw [hq, runLines_singleton (by simpa [opened] using hdec)] at hu
  exact ⟨u, hu, hstep⟩

end Sys2Proof.Machine
end

section
/-! SUPPORT. The invariants of 10_state.md section 12: at reset, and over every step. -/

namespace Sys2Proof.Machine

/-! ### Reset (R50, R51) -/

/-- R50's table meets the invariant under a legal configuration (D7, D10). -/
theorem inv_resetWith {p : Params} (h : p.legal = true) : Inv (State.resetWith p) := by
  have hp := (legal_iff p).1 h
  obtain ⟨hjog, hmove⟩ := resetWith_ceilings h
  have hranges :
      (p.vAcceptMin ≤ (State.resetWith p).vJogMax.toNat ∧
        (State.resetWith p).vJogMax.toNat ≤ p.vAcceptMax) ∧
      (p.vAcceptMin ≤ (State.resetWith p).vMoveMax.toNat ∧
        (State.resetWith p).vMoveMax.toNat ≤ p.vAcceptMax) := by
    omega
  exact
    { legal := h
      reversing_move := nofun
      jog_ceiling := nofun
      move_ceiling := nofun
      speed_floor := fun hne => absurd rfl hne
      one_remote := nofun
      schedule_ahead := fun hne => absurd rfl hne
      jog_range := hranges.1
      move_range := hranges.2
      disabled_idle := fun _ => rfl
      settling_idle := fun _ => rfl
      jog_follows := rfl
      home_settled := rfl
      well_settled := rfl
      clock_range := by simp [State.resetWith]
      stamps := by simp [State.resetWith, ButtonState.reset]
      trace_bound := Nat.zero_le _
      step_low := rfl
      lines_clean := ⟨rfl, rfl⟩ }

/-- Settles O46: in Idle at zero speed with nothing queued, and every clause by the table. -/
theorem resetIsSound : Obligations.ResetIsSound :=
  ⟨fun _ hp => ⟨inv_resetWith hp, nofun, rfl, rfl, rfl, rfl, rfl⟩, inv_resetWith (by decide)⟩

/-! ### Every step keeps `Inv` (R51) -/

/-- Of the environment's side the invariant mentions only that the lines are clean. -/
theorem Inv.of_lines_clean {s : State} (h : Inv s) {waiting : Line} {queue : List Line}
    (hq : queue.all lineClean = true) (hp : lineClean waiting = true) (script : List Event) (n : Nat) :
    Inv { s with rxPartial := waiting, lineQueue := queue, script := script, drawCount := n } :=
  { h with lines_clean := ⟨hq, hp⟩ }

/-- Arriving bytes: the framer hands over clean lines (R81). -/
theorem Inv.receive {s : State} (h : Inv s) (bytes : List Byte) (rest : List Event) :
    Inv (receive bytes { s with script := rest }) := by
  obtain ⟨hqueue, hpartial⟩ := h.lines_clean
  obtain ⟨hnew, hwait⟩ := frameBytes_clean s.rxPartial bytes hpartial
  exact h.of_lines_clean (by rw [List.all_append, hqueue, hnew]; rfl) hwait rest s.drawCount

/-- The reset input keeps the environment's lines (R265). -/
theorem Inv.resetBlock {s : State} (h : Inv s) (rest : List Event) :
    Inv (resetBlock { s with script := rest }) :=
  (inv_resetWith h.legal).of_lines_clean h.lines_clean.1 h.lines_clean.2 rest (s.drawCount + 1)

/-- The stamps stay behind a clock that goes on (R250). -/
theorem Inv.stamps_le {s : State} (h : Inv s) {now : Word} (hnow : s.lastTickTime.toNat ≤ now.toNat) :
    s.motionStartTime.toNat ≤ now.toNat ∧ s.settleStart.toNat ≤ now.toNat ∧
      s.brakeStart.toNat ≤ now.toNat ∧ s.btnHome.lastTransition.toNat ≤ now.toNat ∧
      s.btnHome.pressStart.toNat ≤ now.toNat ∧ s.btnWell.lastTransition.toNat ≤ now.toNat ∧
      s.btnWell.pressStart.toNat ≤ now.toNat := by
  have := h.stamps
  omega

/-- A trip leaves a disabled drive in Idle (R240). -/
theorem Inv.tripTick {s : State} (h : Inv s) {now : Word} (hd : TickDefined now s) (inp : Levels)
    (rest : List Event) :
    Inv (endTick (trip (sampleInputs now inp { s with script := rest, lineQueue := [] }))) := by
  obtain ⟨-, hmono, hrange, -⟩ := hd
  exact
    { h with
      reversing_move := nofun
      jog_ceiling := nofun
      move_ceiling := nofun
      speed_floor := fun hne => absurd rfl hne
      one_remote := nofun
      schedule_ahead := fun hne => absurd rfl hne
      disabled_idle := fun _ => rfl
      settling_idle := fun _ => rfl
      jog_follows := rfl
      clock_range := hrange
      stamps := h.stamps_le hmono
      trace_bound := Nat.zero_le _
      lines_clean := ⟨rfl, h.lines_clean.2⟩ }

/-- A gate that stays closed without a trip finds the drive disabled or settling, and so in Idle
(R241, R242). -/
theorem Inv.idle_of_closed {s : State} (h : Inv s) {now : Word} {inp : Levels}
    (hnow : s.lastTickTime.toNat ≤ now.toNat) (he : inp.estop = false) (hg : ¬ GateOpens now inp s) :
    s.mode = .idle := by
  cases hen : s.enabled with
  | false => exact h.disabled_idle hen
  | true =>
    refine h.settling_idle ?_
    by_contra hsettled
    exact hg ⟨he, fun _ => by omega, fun hdis => by simp [hen] at hdis⟩

/-- A closed gate without a trip leaves an Idle drive enabled and settling (R241 to R243). -/
theorem Inv.closedTick {s : State} (h : Inv s) {now : Word} {inp : Levels} (hd : TickDefined now s)
    (he : inp.estop = false) (hg : ¬ GateOpens now inp s) (rest : List Event) :
    Inv (endTick (opened now inp rest s)) := by
  obtain ⟨-, hmono, hrange, -⟩ := hd
  have hidle : s.mode = .idle := h.idle_of_closed hmono he hg
  obtain ⟨hmst, hsettle, hstamps⟩ := h.stamps_le hmono
  exact
    { h with
      schedule_ahead := fun hne => absurd hidle hne
      disabled_idle := nofun
      settling_idle := fun _ => hidle
      clock_range := hrange
      stamps := ⟨hmst, by simp only [endTick, opened]; split <;> omega, hstamps⟩
      trace_bound := Nat.zero_le _
      lines_clean := ⟨rfl, h.lines_clean.2⟩ }

/-- The emitter ends a tick in the invariant: it leaves the mode or arrives, and puts a running schedule
ahead of now (R226, R227). -/
theorem MidTick.emit {s : State} (h : MidTick s)
    (hjog : s.mode = .jog → s.currentSpeed.toNat ≤ s.vJogMax.toNat)
    (hmove : s.mode = .move → s.currentSpeed.toNat ≤ s.vMoveMax.toNat)
    (hfollow : if s.mode = .jog then s.prevDemand.dir? = some s.direction else s.prevDemand = .neutral) :
    Inv (endTick (emit s)) := by
  obtain ⟨hmode, hrev, hahead, hstart, htrace, hlow⟩ :=
    emit_facts s h.legal h.clock_range h.trace_nil h.speed_floor h.step_low
  have hjogMode : (Machine.emit s).mode = .jog ↔ s.mode = .jog := by
    rcases hmode with hm | ⟨hm, -, hm'⟩
    · rw [hm]
    · simp [hm, hm']
  have hrunning : (Machine.emit s).mode ≠ .idle → (Machine.emit s).mode = s.mode := by
    rcases hmode with hm | ⟨-, -, hm⟩ <;> simp [hm]
  have hstartLe : (Machine.emit s).motionStartTime.toNat ≤ s.now.toNat := by
    rcases hstart with hst | hst
    · rw [hst]; exact h.stamps.1
    · rw [hst]
  constructor
  case legal => simpa using h.legal
  case reversing_move =>
    intro hr
    have hr : s.reversing = true := by simpa using hr
    rcases hmode with hm | ⟨-, hr', -⟩
    · exact hm.trans (h.reversing_move hr)
    · cases hr.symm.trans hr'
  case jog_ceiling => simpa [hjogMode] using hjog
  case move_ceiling =>
    intro hm
    have hm : (Machine.emit s).mode = .move := hm
    simpa using hmove ((hrunning (by simp [hm])).symm.trans hm)
  case speed_floor =>
    intro hne
    have hne : (Machine.emit s).mode ≠ .idle := hne
    simpa using h.speed_floor (hrunning hne ▸ hne)
  case one_remote => simpa using h.one_remote
  case schedule_ahead => simpa using hahead
  case jog_range => simpa using h.jog_range
  case move_range => simpa using h.move_range
  case disabled_idle => simp [h.enabled]
  case settling_idle =>
    intro hlt
    exact absurd h.settled (by simpa using hlt)
  case jog_follows => simpa [hjogMode] using hfollow
  case home_settled => simpa using h.home_settled
  case well_settled => simpa using h.well_settled
  case clock_range => simpa using h.clock_range
  case stamps => simpa using ⟨hstartLe, h.stamps.2⟩
  case trace_bound => simpa using htrace
  case step_low => simpa using hlow
  case lines_clean => simp [h.lines_clean]

/-- Phases 4 to 7 end a tick in the invariant: jog arbitration makes the mode follow the demand, and the
profile brings the speed under the ceiling (R114 to R117). -/
theorem MidTick.motionPhases {s : State} (h : MidTick s) (inp : Levels) (dt : Nat) :
    Inv (endTick (motionPhases inp dt s)) := by
  obtain ⟨hjog, hfollow⟩ := h.jog (jogDemand inp s)
  obtain ⟨hprof, hceilJog, hceilMove, hmode, hdir⟩ := hjog.prof dt
  refine hprof.emit (by simpa using hceilJog) (by simpa using hceilMove) ?_
  split
  case isTrue hm =>
    rw [if_pos (hmode.symm.trans hm)] at hfollow
    rw [hdir hm]
    simpa using hfollow
  case isFalse hm =>
    rw [if_neg (fun hm' => hm (hmode.trans hm'))] at hfollow
    simpa using hfollow

/-- An open gate carries the invariant through `MidTick` from phase 2 to phase 3. -/
theorem Inv.midTick_of_open {s u : State} (h : Inv s) {now : Word} {inp : Levels} {rest : List Event}
    (hd : TickDefined now s) (hg : GateOpens now inp s)
    (hu : runLines s.lineQueue (arbiter inp (opened now inp rest s)) = .next u) : MidTick u :=
  runLines_induct (fun _ _ _ => MidTick.exec) _ _ _ ((MidTick.opened h hd hg).arb inp) hu

/-- Settles O47, event by event. -/
theorem stepKeepsInv : Obligations.StepKeepsInv := by
  intro s t hinv hstep
  obtain ⟨-, ⟨-, rfl⟩ | ⟨bytes, rest, -, rfl⟩ | ⟨rest, -, rfl⟩ | ⟨now, inp, rest, -, hd, hc⟩⟩ :=
    step_cases hstep
  · exact hinv
  · exact hinv.receive bytes rest
  · exact hinv.resetBlock rest
  · rcases hc with ⟨-, rfl⟩ | ⟨he, hg, rfl⟩ | ⟨hg, u, hu, rfl⟩
    · exact hinv.tripTick hd inp rest
    · exact hinv.closedTick hd he hg rest
    · exact (hinv.midTick_of_open hd hg hu).motionPhases inp _

/-! ### Every step keeps `Aimed` (R51 item 2) -/

/-- Phases 2 and 3 of an open-gate tick keep the target on its side: Move requests set the direction
with the target (R178). -/
theorem aimed_of_open {s u : State} (h : Aimed s) {now : Word} {inp : Levels} {rest : List Event}
    (hu : runLines s.lineQueue (arbiter inp (opened now inp rest s)) = .next u) : Aimed u := by
  have hopen : Aimed (opened now inp rest s) := h
  exact runLines_induct (fun _ _ _ => aimed_exec) _ _ _ (aimed_serve (aimed_serve hopen _ _) _ _) hu

/-- The room to the ends of the range depends on the position and on `N_MAX_PULSES` only. -/
theorem awayFromEnds_of_frame {s t : State} (h : awayFromEnds s) (hx : t.position = s.position)
    (hp : t.params = s.params) : awayFromEnds t := by
  rwa [awayFromEnds, hx, hp]

/-- Settles O48: only the emitter moves the position, and with room to the ends of the range its pulses
do not pass the target (`aimed_emit`). -/
theorem stepKeepsAimed : Obligations.StepKeepsAimed := by
  intro s t haim haway hstep
  obtain ⟨-, ⟨-, rfl⟩ | ⟨bytes, rest, -, rfl⟩ | ⟨rest, -, rfl⟩ | ⟨now, inp, rest, -, -, hc⟩⟩ :=
    step_cases hstep
  · exact haim
  · exact haim
  · exact nofun
  · rcases hc with ⟨-, rfl⟩ | ⟨-, -, rfl⟩ | ⟨-, u, hu, rfl⟩
    · exact nofun
    · exact haim
    · have hsaves := OnlySaves.runLines hu
      have haway' : awayFromEnds u :=
        awayFromEnds_of_frame haway (hsaves.position.trans (by simp [opened]))
          (hsaves.params.trans (by simp [opened]))
      have hprof := aimed_prof (aimed_jog (aimed_of_open haim hu) (jogDemand inp u))
        (now.toNat - s.lastTickTime.toNat)
      exact aimed_emit hprof (awayFromEnds_of_frame haway' (by simp) (by simp))

end Sys2Proof.Machine
end

section
/-! SUPPORT. The statements of the command chapters (42 to 44): `ST`, Move requests case by case, the
ceilings, and a recall after a save. -/

namespace Sys2Proof.Machine

/-! ### Move requests, an equation per case (R178) -/

section

variable {s : State} {t : Word}

/-- Case 1: a request for the position, outside Move. -/
theorem moveRequest_position_of_not_move (hm : s.mode ≠ .move) : moveRequest s.position s = s := by
  cases h : s.mode with
  | idle | jog => simp [moveRequest, h]
  | move => exact absurd h hm

/-- Case 2 from Idle. -/
theorem moveRequest_of_idle (hm : s.mode = .idle) (ht : t ≠ s.position) :
    moveRequest t s = startFromIdle (beginMove t s) := by
  simp only [moveRequest, hm, if_neg (mt toInt_sub_eq_zero.1 ht)]

/-- Case 2 from Jog. -/
theorem moveRequest_of_jog (hm : s.mode = .jog) (ht : t ≠ s.position) :
    moveRequest t s = beginMove t s := by
  simp only [moveRequest, hm, if_neg (mt toInt_sub_eq_zero.1 ht)]

/-- A new episode goes to the side its target lies on (R178, D27). -/
theorem beginMove_eq (ht : t ≠ s.position) :
    beginMove t s =
      { s with
        target := t
        commandedTarget := t
        direction := if s.position.toInt < t.toInt then .right else .left
        reversing := false
        mode := .move
        motionStartTime := s.now } := by
  rw [beginMove, dirOf_sub ht]

/-- Case 3: a request for the position, in Move. -/
theorem moveRequest_position_of_move (hm : s.mode = .move) :
    moveRequest s.position s =
      { s with
        target := s.position
        commandedTarget := s.position
        reversing := false
        mode := .idle } := by
  simp [moveRequest, hm, retarget]

/-- Case 4: a request further on the way, in Move. -/
theorem moveRequest_ahead_of_move (hm : s.mode = .move) (ht : t ≠ s.position)
    (hd : dirOf (t.toInt - s.position.toInt) = s.direction) :
    moveRequest t s = { s with target := t, commandedTarget := t, reversing := false } := by
  simp only [moveRequest, hm, retarget, if_neg (mt toInt_sub_eq_zero.1 ht), if_pos hd]

/-- Case 5: a request the other way, in Move. -/
theorem moveRequest_behind_of_move (hm : s.mode = .move) (ht : t ≠ s.position)
    (hd : dirOf (t.toInt - s.position.toInt) ≠ s.direction) :
    moveRequest t s =
      { s with
        target := t
        commandedTarget := t
        reversing := true
        pendingDirection := dirOf (t.toInt - s.position.toInt) } := by
  simp only [moveRequest, hm, retarget, if_neg (mt toInt_sub_eq_zero.1 ht), if_neg hd]

/-- A target to the right is not the position, and its side is right (R19). -/
theorem dirOf_of_liesRight (h : liesRight s t) :
    t ≠ s.position ∧ dirOf (t.toInt - s.position.toInt) = .right :=
  have hne : t ≠ s.position := fun e => by simp [liesRight, e] at h
  ⟨hne, (dirOf_sub hne).trans (if_pos h)⟩

/-- A target to the left is not the position, and its side is left (R19). -/
theorem dirOf_of_liesLeft (h : t.toInt < s.position.toInt) :
    t ≠ s.position ∧ dirOf (t.toInt - s.position.toInt) = .left :=
  have hne : t ≠ s.position := fun e => by simp [e] at h
  ⟨hne, (dirOf_sub hne).trans (if_neg (by omega))⟩

end

/-! ### The move commands (R155 to R158) -/

/-- A move command with no target changes nothing (R155, R156, R165). -/
theorem exec_of_no_target {i : Instr} {s : State} (hi : isMoveCommand i = true)
    (h : requestedTarget s i = none) : exec i s = .next s := by
  cases i with
  | gt v =>
    rw [requestedTarget_gt] at h
    simp only [exec, execGt, h, requestIf]
  | mr v =>
    rw [requestedTarget_mr] at h
    simp only [exec, execMr, h, requestIf]
  | gh =>
    have hunsaved : ¬ (s.slot .home).saved = true := by simpa [requestedTarget, State.slot] using h
    rw [exec_gh, recallSlot_of_not_saved hunsaved]
  | gw =>
    have hunsaved : ¬ (s.slot .well).saved = true := by simpa [requestedTarget, State.slot] using h
    rw [exec_gw, recallSlot_of_not_saved hunsaved]
  | jl | jr | js | st | sh | sw | vj v | vm v => cases hi

/-- Settles O13: with no target nothing is requested, and a request for the position is case 1. -/
theorem moveCommandNoOps : Obligations.MoveCommandNoOps := by
  intro i s hi
  refine ⟨exec_of_no_target hi, fun ht hm => ?_⟩
  rw [exec_of_requestedTarget i s _ ht, moveRequest_position_of_not_move hm]

/-- Settles O10: the command is a Move request, in Idle case 2 with the start speed. -/
theorem moveCommandFromIdle : Obligations.MoveCommandFromIdle := by
  intro i s t ht hm hne
  rw [exec_of_requestedTarget i s t ht, moveRequest_of_idle hm hne, beginMove_eq hne]
  rfl

/-- Settles O11: the command is a Move request, in Jog case 2 alone. -/
theorem moveCommandFromJog : Obligations.MoveCommandFromJog := by
  intro i s t ht hm hne
  rw [exec_of_requestedTarget i s t ht, moveRequest_of_jog hm hne, beginMove_eq hne]

/-- Settles O12: the command is a Move request, in Move cases 3 to 5 by the side the target lies on. -/
theorem retargetInMove : Obligations.RetargetInMove := by
  intro i s t ht hm
  rw [exec_of_requestedTarget i s t ht]
  refine ⟨?onto, ?aheadRight, ?aheadLeft, ?behindRight, ?behindLeft⟩
  case onto =>
    rintro rfl
    rw [moveRequest_position_of_move hm]
  case aheadRight =>
    intro hside hdir
    obtain ⟨hne, hd⟩ := dirOf_of_liesRight hside
    rw [moveRequest_ahead_of_move hm hne (hd.trans hdir.symm)]
  case aheadLeft =>
    intro hside hdir
    obtain ⟨hne, hd⟩ := dirOf_of_liesLeft hside
    rw [moveRequest_ahead_of_move hm hne (hd.trans hdir.symm)]
  case behindRight =>
    intro hside hdir
    obtain ⟨hne, hd⟩ := dirOf_of_liesRight hside
    rw [moveRequest_behind_of_move hm hne (by simp [hd, hdir]), hd]
  case behindLeft =>
    intro hside hdir
    obtain ⟨hne, hd⟩ := dirOf_of_liesLeft hside
    rw [moveRequest_behind_of_move hm hne (by simp [hd, hdir]), hd]

/-! ### `ST` (R148) -/

/-- `ST` in Move clears the flags and requests the position. -/
theorem exec_st_of_move {s : State} (hm : s.mode = .move) :
    exec .st s = .next (moveRequest s.position (setRemoteJog false false s)) :=
  congrArg Host.Outcome.next (if_pos hm)

/-- `ST` outside Move clears the flags. -/
theorem exec_st_of_not_move {s : State} (hm : s.mode ≠ .move) :
    exec .st s = .next (setRemoteJog false false s) :=
  congrArg Host.Outcome.next (if_neg hm)

/-- Settles O9: in Move the request is for the position, case 3. -/
theorem stopCommand : Obligations.StopCommand := by
  intro s
  split
  case isTrue hm =>
    rw [exec_st_of_move hm]
    exact congrArg Host.Outcome.next (moveRequest_position_of_move (s := setRemoteJog false false s) hm)
  case isFalse hm =>
    rw [exec_st_of_not_move hm]
    rfl

/-! ### Ceilings (R167, R168) -/

theorem acceptedSpeed_of_inside {s : State} {v : Nat} (hlo : s.params.vAcceptMin ≤ v)
    (hhi : v ≤ s.params.vAcceptMax) : acceptedSpeed s v = some (toWord v) := if_pos ⟨hlo, hhi⟩

theorem acceptedSpeed_of_outside {s : State} {v : Nat}
    (h : v < s.params.vAcceptMin ∨ s.params.vAcceptMax < v) : acceptedSpeed s v = none :=
  if_neg (by omega)

/-- Settles O16: both commands store what `acceptedSpeed` accepts. -/
theorem ceilingCommands : Obligations.CeilingCommands := by
  intro s v
  refine ⟨fun hlo hhi => ?_, fun hout => ?_⟩
  · simp only [exec, execVj, execVm, acceptedSpeed_of_inside hlo hhi]
    exact ⟨rfl, rfl⟩
  · simp only [exec, execVj, execVm, acceptedSpeed_of_outside hout, and_self]

/-! ### A recall after a save (R70, R169, R170) -/

/-- A recall of a slot that holds the position: nothing, or in Move the stop in place (D23, D26). -/
theorem recallSlot_of_saved_position {k : Slot} {s : State}
    (h : s.slot k = { steps := s.position, saved := true }) :
    recallSlot k s =
      if s.mode = .move then
        { s with
          target := s.position
          commandedTarget := s.position
          reversing := false
          mode := .idle }
      else s := by
  rw [recallSlot_of_saved (by rw [h]), h]
  split
  case isTrue hm => exact moveRequest_position_of_move hm
  case isFalse hm => exact moveRequest_position_of_not_move hm

/-- Settles O17: after both saves each slot holds the position, and a recall reads the slot. -/
theorem recallSeesSaveOfSameTick : Obligations.RecallSeesSaveOfSameTick := by
  intro s t u ht hu i hi
  rw [exec_sh] at ht
  cases ht
  rw [exec_sw] at hu
  cases hu
  rcases hi with rfl | rfl
  · rw [exec_gh, recallSlot_of_saved_position rfl]
    rfl
  · rw [exec_gw, recallSlot_of_saved_position rfl]
    rfl

end Sys2Proof.Machine
end

section
/-! SUPPORT. The statements of 41_input_arbiter.md and 45_motion_state_machine.md about accepted levels,
the jog demand and the entry into Jog. -/

namespace Sys2Proof.Machine

/-! ### The level `Debounce` accepts (R126, R127, R130) -/

@[simp] theorem trackRaw_raw (sample : Bool) (now : Word) (b : ButtonState) :
    (trackRaw sample now b).raw = sample := by
  unfold trackRaw
  split
  case isTrue => rfl
  case isFalse h => exact (not_not.1 h).symm

@[simp] theorem trackRaw_stable (sample : Bool) (now : Word) (b : ButtonState) :
    (trackRaw sample now b).stable = b.stable := by
  unfold trackRaw; split <;> rfl

@[simp] theorem trackRaw_lastTransition (sample : Bool) (now : Word) (b : ButtonState) :
    (trackRaw sample now b).lastTransition = if sample = b.raw then b.lastTransition else now := by
  simp only [trackRaw, ite_not, ne_eq]
  split <;> rfl

@[simp] theorem acceptLevel_raw (p : Params) (now : Word) (b : ButtonState) :
    (acceptLevel p now b).raw = b.raw := by
  unfold acceptLevel; split <;> rfl

@[simp] theorem acceptLevel_lastTransition (p : Params) (now : Word) (b : ButtonState) :
    (acceptLevel p now b).lastTransition = b.lastTransition := by
  unfold acceptLevel; split <;> rfl

/-- The raw level is accepted exactly where it differs and has persisted; equality accepts (R127). -/
theorem acceptLevel_stable_ne_iff (p : Params) (now : Word) (b : ButtonState) :
    (acceptLevel p now b).stable ≠ b.stable ↔
      b.raw ≠ b.stable ∧ b.lastTransition.toNat + p.debounceUs ≤ now.toNat := by
  rw [← le_elapsed_iff]
  unfold acceptLevel
  split
  case isTrue haccept => exact iff_of_true haccept.1 haccept
  case isFalse hkeep => exact iff_of_false (fun h => h rfl) hkeep

@[simp] theorem flagLong_raw (p : Params) (now : Word) (b : ButtonState) :
    (flagLong p now b).raw = b.raw := by
  unfold flagLong; split <;> rfl

@[simp] theorem flagLong_stable (p : Params) (now : Word) (b : ButtonState) :
    (flagLong p now b).stable = b.stable := by
  unfold flagLong; split <;> rfl

@[simp] theorem flagLong_lastTransition (p : Params) (now : Word) (b : ButtonState) :
    (flagLong p now b).lastTransition = b.lastTransition := by
  unfold flagLong; split <;> rfl

/-- The edge step leaves the raw level and its time, and `lastStable` follows (R130). -/
@[simp] theorem edge_keeps (now : Word) (b : ButtonState) :
    (edge now b).1.raw = b.raw ∧ (edge now b).1.lastTransition = b.lastTransition ∧
      (edge now b).1.lastStable = b.stable := by
  unfold edge
  split
  case isTrue h => exact ⟨rfl, rfl, h.symm⟩
  case isFalse => split <;> exact ⟨rfl, rfl, rfl⟩

/-- Settles O27: the sample is tracked first, and the second step alone writes the stable level. -/
theorem debounceAcceptsPersistentLevel : Obligations.DebounceAcceptsPersistentLevel := by
  intro p sample now b
  have haccept := acceptLevel_stable_ne_iff p now (trackRaw sample now b)
  rw [trackRaw_stable, trackRaw_raw, trackRaw_lastTransition] at haccept
  unfold debounce
  refine ⟨?_, by simp, by simp, by simp⟩
  rw [edge_stable, flagLong_stable, haccept]
  refine and_congr_right fun _ => ?_
  split
  · exact Iff.rfl
  · omega

/-! ### The jog demand (R133, R134) -/

theorem jogDemand_eq_left_iff (inp : Levels) (s : State) :
    jogDemand inp s = .left ↔
      (inp.jogLeftBtn || s.remoteJogLeft) = true ∧ (inp.jogRightBtn || s.remoteJogRight) = false := by
  rw [jogDemand_eq]
  generalize (inp.jogLeftBtn || s.remoteJogLeft) = l
  generalize (inp.jogRightBtn || s.remoteJogRight) = r
  cases l <;> cases r <;> simp

theorem jogDemand_eq_right_iff (inp : Levels) (s : State) :
    jogDemand inp s = .right ↔
      (inp.jogRightBtn || s.remoteJogRight) = true ∧ (inp.jogLeftBtn || s.remoteJogLeft) = false := by
  rw [jogDemand_eq]
  generalize (inp.jogLeftBtn || s.remoteJogLeft) = l
  generalize (inp.jogRightBtn || s.remoteJogRight) = r
  cases l <;> cases r <;> simp

/-- Settles O30: a side is asserted by its button or its flag, and sides asserted alike are neutral. -/
theorem jogDemandNeutralOnConflict : Obligations.JogDemandNeutralOnConflict := by
  intro inp s
  refine ⟨by simp [jogDemand_eq_left_iff], by simp [jogDemand_eq_right_iff], fun hl hr => ?_⟩
  have hleft : (inp.jogLeftBtn || s.remoteJogLeft) = true := by simpa using hl
  have hright : (inp.jogRightBtn || s.remoteJogRight) = true := by simpa using hr
  rw [jogDemand_eq, hleft, hright, if_pos rfl]

/-! ### The entry into Jog (R180, R181, R183) -/

theorem enterJog_of_jog {s : State} (hm : s.mode = .jog) : enterJog s = s := by
  rw [enterJog, hm]

theorem enterJog_of_idle {s : State} (hm : s.mode = .idle) :
    enterJog s = { startFromIdle s with mode := .jog, motionStartTime := s.now } := by
  rw [enterJog, hm]

theorem enterJog_of_move {s : State} (hm : s.mode = .move) :
    enterJog s =
      { s with target := s.position, reversing := false, mode := .jog, motionStartTime := s.now } := by
  rw [enterJog, hm]

/-- What `startBrake` writes, the two brake fields as values (R180). -/
theorem startBrake_eq (s : State) :
    startBrake s =
      { s with
        brakeHold := if s.prevDemand = .neutral then true else s.brakeHold
        brakeStart := if s.prevDemand = .neutral then s.now else s.brakeStart } := by
  unfold startBrake
  split <;> rfl

/-- Settles O32: the brake delay first, then the entry of the mode (R181). -/
theorem jogEntry : Obligations.JogEntry := by
  intro d dir s hdir
  have hbrake : (startBrake s).mode = s.mode := by simp
  rw [jogArbitrate_of_dir hdir]
  cases hm : s.mode with
  | jog => rw [enterJog_of_jog (hbrake.trans hm), startBrake_eq]; simp only [hm]
  | idle => rw [enterJog_of_idle (hbrake.trans hm), startBrake_eq]; rfl
  | move => rw [enterJog_of_move (hbrake.trans hm), startBrake_eq]

/-- A Move request for another place, made outside Move, is under way at once: speed `V_START` from Idle,
the jog's from Jog (R178 case 2). -/
theorem moveRequest_elsewhere_of_not_move {t : Word} {s : State} (hm : s.mode ≠ .move)
    (ht : t ≠ s.position) :
    (moveRequest t s).mode = .move ∧ (moveRequest t s).commandedTarget = t ∧
      (moveRequest t s).currentSpeed =
        (if s.mode = .idle then BitVec.ofNat 64 s.params.vStart else s.currentSpeed) := by
  cases h : s.mode with
  | idle => rw [moveRequest_of_idle h ht]; exact ⟨rfl, rfl, rfl⟩
  | jog => rw [moveRequest_of_jog h ht]; exact ⟨rfl, rfl, rfl⟩
  | move => exact absurd h hm

/-- Settles O34: phase 3 leaves a Move, which jog arbitration enters Jog from. -/
theorem jogPreemptsMoveRequestedInSameTick : Obligations.JogPreemptsMoveRequestedInSameTick := by
  intro i s u t d dir ht hne hm hdir hexec
  rw [exec_of_requestedTarget i s t ht] at hexec
  cases hexec
  obtain ⟨hmove, hcommanded, hspeed⟩ := moveRequest_elsewhere_of_not_move hm hne
  rw [jogEntry d dir _ hdir, hmove, ← hspeed]
  simp [hcommanded]

end Sys2Proof.Machine
end

section
/-! SUPPORT. The statements of 46_velocity_profile.md and 47_step_pulse_emitter.md: the profile branch by
branch, and what the emitter sends and when. -/

namespace Sys2Proof.Machine

/-! ### The profile, an equation per branch (R197 to R203) -/

theorem toWord_toNat_self (w : Word) : toWord w.toNat = w := by simp [toWord]

/-- The rate of the soft-start window, without subtraction (R196). -/
theorem accel_eq (s : State) :
    accel s =
      if s.now.toNat < s.motionStartTime.toNat + s.params.softStartUs then s.params.aSoft
      else s.params.aSteady := by
  simp only [accel, elapsed_lt_iff]

section

variable {s : State} {dt : Nat}

theorem profile_of_idle (hm : s.mode = .idle) :
    profile dt s = { s with currentSpeed := toWord (s.currentSpeed.toNat - s.params.decel * dt) } := by
  simp only [profile, hm]

theorem profile_of_held_jog (hm : s.mode = .jog) (hb : s.brakeHold = true) :
    profile dt s = { s with currentSpeed := toWord (min s.currentSpeed.toNat s.vJogMax.toNat) } := by
  simp only [profile, hm, if_pos hb]

theorem profile_of_jog (hm : s.mode = .jog) (hb : s.brakeHold = false) :
    profile dt s =
      { s with
        currentSpeed := toWord (min s.vJogMax.toNat (s.currentSpeed.toNat + accel s * dt)) } := by
  simp only [profile, hm, hb, Bool.false_eq_true, if_false]

theorem profile_of_reversing (hm : s.mode = .move) (hr : s.reversing = true) :
    profile dt s = flipAtFloor { s with currentSpeed := slowed dt s } := by
  simp only [profile, hm, if_pos hr]

theorem profile_of_near_move (hm : s.mode = .move) (hr : s.reversing = false)
    (hnear : remaining s ≤ stopDist s.params s.currentSpeed.toNat + 1) :
    profile dt s = { s with currentSpeed := slowed dt s } := by
  simp only [profile, hm, hr, Bool.false_eq_true, if_false, if_pos hnear]

theorem profile_of_far_move (hm : s.mode = .move) (hr : s.reversing = false)
    (hfar : ¬ remaining s ≤ stopDist s.params s.currentSpeed.toNat + 1) :
    profile dt s =
      { s with
        currentSpeed := toWord (min s.vMoveMax.toNat (s.currentSpeed.toNat + accel s * dt)) } := by
  simp only [profile, hm, hr, Bool.false_eq_true, if_false, if_neg hfar]

/-- A reversal above the start floor goes on (R203). -/
theorem flipAtFloor_of_above (h : s.params.vStart < s.currentSpeed.toNat) : flipAtFloor s = s :=
  if_neg (Nat.not_le.2 h)

/-- A reversal down to the start floor flips (R203). -/
theorem flipAtFloor_of_floor (h : s.currentSpeed.toNat ≤ s.params.vStart) :
    flipAtFloor s =
      { s with direction := s.pendingDirection, reversing := false, nextStepDeadline := s.now } :=
  if_pos h

end

/-- Settles O35: the branches of Idle and Jog; a ceiling that is above the speed does not cut it. -/
theorem idleAndJogSpeed : Obligations.IdleAndJogSpeed := by
  intro dt s
  refine ⟨fun hm => profile_of_idle hm, fun hm hb => ?_, fun hm hb => ?_⟩
  · rw [profile_of_held_jog hm hb]
    split
    case isTrue hle => rw [Nat.min_eq_left hle, toWord_toNat_self]
    case isFalse hlt => rw [Nat.min_eq_right (Nat.le_of_not_le hlt), toWord_toNat_self]
  · rw [profile_of_jog hm hb, ← accel_eq]
    exact ⟨toWord_min_toNat _ _, rfl⟩

/-- Settles O36: the branch is chosen by the stopping distance, here without its division. -/
theorem moveDecelerationTrigger : Obligations.MoveDecelerationTrigger := by
  intro dt s hdecel hm hr
  have htrigger := le_stopDist_succ_iff hdecel (remaining s) s.currentSpeed.toNat
  rw [remaining] at htrigger
  split
  case isTrue hnear =>
    rw [profile_of_near_move hm hr (htrigger.2 hnear)]
    exact ⟨slowed_toNat dt s, rfl⟩
  case isFalse hfar =>
    rw [profile_of_far_move hm hr (mt htrigger.1 hfar), ← accel_eq]
    exact ⟨toWord_min_toNat _ _, rfl⟩

/-- A jog's speed ends between the start speed and the ceiling (R199, R204). -/
theorem profile_jog_bounds {s : State} (dt : Nat) (hm : s.mode = .jog)
    (hceil : s.params.vStart ≤ s.vJogMax.toNat) (hfloor : s.params.vStart ≤ s.currentSpeed.toNat) :
    s.params.vStart ≤ (profile dt s).currentSpeed.toNat ∧
      (profile dt s).currentSpeed.toNat ≤ s.vJogMax.toNat := by
  cases hb : s.brakeHold with
  | true =>
    rw [profile_of_held_jog hm hb]
    simp only [toWord_min_toNat]
    omega
  | false =>
    rw [profile_of_jog hm hb]
    simp only [toWord_min_toNat]
    omega

/-- A Move's speed ends between the start speed and the ceiling (R202 to R204). -/
theorem profile_move_bounds {s : State} (dt : Nat) (hm : s.mode = .move)
    (hceil : s.params.vStart ≤ s.vMoveMax.toNat) (hfloor : s.params.vStart ≤ s.currentSpeed.toNat) :
    s.params.vStart ≤ (profile dt s).currentSpeed.toNat ∧
      (profile dt s).currentSpeed.toNat ≤ s.vMoveMax.toNat := by
  have hslowed := slowed_toNat dt s
  cases hr : s.reversing with
  | true =>
    rw [profile_of_reversing hm hr]
    simp only [flipAtFloor_keeps]
    omega
  | false =>
    by_cases hnear : remaining s ≤ stopDist s.params s.currentSpeed.toNat + 1
    · rw [profile_of_near_move hm hr hnear]
      dsimp only
      omega
    · rw [profile_of_far_move hm hr hnear]
      simp only [toWord_min_toNat]
      omega

/-- In Idle the speed does not rise (R198). -/
theorem profile_idle_le {s : State} (dt : Nat) (hm : s.mode = .idle) :
    (profile dt s).currentSpeed.toNat ≤ s.currentSpeed.toNat := by
  have hspeed := s.currentSpeed.isLt
  rw [profile_of_idle hm]
  exact (toWord_toNat (by omega)).trans_le (Nat.sub_le _ _)

/-- Settles O38: mode by mode; R10 puts the start speed at or below `V_ACCEPT_MIN`, and so below both
ceilings. -/
theorem profileKeepsSpeedBounds : Obligations.ProfileKeepsSpeedBounds := by
  intro dt s hl hjog hmove hfloor
  have hp := (legal_iff s.params).1 hl
  exact ⟨by simp,
    fun hm => profile_jog_bounds dt hm (by omega) (hfloor (by simp [hm])),
    fun hm => profile_move_bounds dt hm (by omega) (hfloor (by simp [hm])),
    profile_idle_le dt⟩

/-! ### Which branch the emitter takes (R216, R217, R220) -/

/-- A mode that is running and out of the brake hold (R216, R220). -/
def Unheld (s : State) : Prop := s.mode ≠ .idle ∧ (s.mode = .jog → s.brakeHold = false)

/-- A hold whose delay is not over silences the emitter (R220). -/
theorem emit_of_held {s : State} (hm : s.mode = .jog) (hb : s.brakeHold = true)
    (hnow : s.now.toNat < s.brakeStart.toNat + s.params.brakeReleaseUs) : emit s = s := by
  simp [emit, held, hm, hb, hnow]

/-- Out of the hold there is no brake to release (R220). -/
theorem emit_of_unheld {s : State} (h : Unheld s) : emit s = emitRunning s := by
  obtain ⟨hidle, hhold⟩ := h
  have hnot : ¬ (s.mode = .jog ∧ s.brakeHold = true) := fun ⟨hm, hb⟩ => by simp [hhold hm] at hb
  have hheld : ¬ held s = true := by
    simp only [held, Bool.and_eq_true, decide_eq_true_eq]
    exact fun hh => hnot hh.1
  rw [emit, if_neg hidle, if_neg hheld, releaseBrake, if_neg hnot]

/-- The end of a hold starts the soft-start window and the schedule (R220). -/
theorem releaseBrake_of_hold {s : State} (hm : s.mode = .jog) (hb : s.brakeHold = true) :
    releaseBrake s =
      { s with brakeHold := false, motionStartTime := s.now, nextStepDeadline := s.now } :=
  if_pos ⟨hm, hb⟩

/-- A hold whose delay is over is released, and the emitter goes on from there (R220). -/
theorem emit_of_released {s : State} (hm : s.mode = .jog) (hb : s.brakeHold = true)
    (hnow : s.brakeStart.toNat + s.params.brakeReleaseUs ≤ s.now.toNat) :
    Unheld (releaseBrake s) ∧ emit s = emit (releaseBrake s) := by
  have hunheld : Unheld (releaseBrake s) :=
    ⟨by simp [hm], fun _ => by rw [releaseBrake_of_hold hm hb]⟩
  have hheld : ¬ held s = true := by simp [held, hm, hb, hnow]
  refine ⟨hunheld, ?_⟩
  rw [emit_of_unheld hunheld, emit, if_neg (by simp [hm]), if_neg hheld]

/-- Out of the hold the phase writes neither brake field nor the episode's start (R220). -/
theorem emit_keeps_of_unheld {s : State} (h : Unheld s) :
    (emit s).brakeHold = s.brakeHold ∧ (emit s).motionStartTime = s.motionStartTime := by
  rw [emit_of_unheld h]
  simp

/-- Settles O39: `emit_of_idle`, `emit_of_held`, and the slow branch of a mode out of the hold. -/
theorem emitterSilentCases : Obligations.EmitterSilentCases := by
  intro s
  refine ⟨emit_of_idle, emit_of_held, fun hidle hhold hv => ?_⟩
  rw [emit_of_unheld ⟨hidle, hhold⟩, emitRunning_of_slow hv]

/-- Out of the hold, at a runnable speed, the phase is the pulse loop and the backlog drop (R221, R227). -/
theorem emit_of_runnable {s : State} (h : Unheld s) (hv : s.params.vMinRun ≤ s.currentSpeed.toNat) :
    emit s = dropBacklog (interval s) (pulseLoop (interval s) s.params.nMaxPulses s) := by
  rw [emit_of_unheld h, emitRunning_of_runnable (Nat.not_lt.2 hv)]

/-- A pulse that is due goes out in the phase, in the current direction (R221, R223). -/
theorem emit_first {s : State} (hl : s.params.legal = true) (h : Unheld s)
    (hv : s.params.vMinRun ≤ s.currentSpeed.toNat) (hdue : pulseDue s = true) (ht : s.trace = []) :
    (emit s).trace.head? = some s.direction := by
  have hp := (legal_iff s.params).1 hl
  have hpulses : 1 ≤ s.params.nMaxPulses := by omega
  rw [emit_of_runnable h hv]
  simpa using pulseLoop_first (interval s) s.params.nMaxPulses s hpulses hdue ht

/-! ### The flip and the release (R203, R220) -/

/-- Settles O37: the speed is `slowed`, which is at least the start speed, so down to the floor it is the
start speed; the flip puts the schedule at now, so a pulse is due. -/
theorem reversalFlipsOnlyAtFloor : Obligations.ReversalFlipsOnlyAtFloor := by
  intro dt s hl hm hr hceil ht
  have hp := (legal_iff s.params).1 hl
  have hslowed := slowed_toNat dt s
  have hspeed : (profile dt s).currentSpeed = slowed dt s := by
    rw [profile_of_reversing hm hr]; simp
  rw [hspeed]
  refine ⟨hslowed, fun habove => ?_, fun hfloor => ?_⟩
  · rw [profile_of_reversing hm hr, flipAtFloor_of_above habove]
  · have hstart : slowed dt s = BitVec.ofNat 64 s.params.vStart := by
      have heq : (slowed dt s).toNat = s.params.vStart := by omega
      rw [← heq]
      exact (toWord_toNat_self _).symm
    have hflip : profile dt s =
        { s with
          currentSpeed := slowed dt s
          direction := s.pendingDirection
          reversing := false
          nextStepDeadline := s.now } := by
      rw [profile_of_reversing hm hr, flipAtFloor_of_floor hfloor]
    refine ⟨by rw [hflip, hstart], ?_⟩
    rw [hflip]
    refine emit_first hl ⟨by simp [hm], by simp [hm]⟩ ?_ (by simp [pulseDue]) ht
    change s.params.vMinRun ≤ (slowed dt s).toNat
    omega

/-- Settles O40: the release puts the schedule at now, so a pulse is due. -/
theorem brakeReleaseEmitsAtOnce : Obligations.BrakeReleaseEmitsAtOnce := by
  intro s hl hm hb ht hv hnow
  obtain ⟨hunheld, hemit⟩ := emit_of_released hm hb hnow
  obtain ⟨hbrake, hstart⟩ := emit_keeps_of_unheld hunheld
  have hmode : (emit s).mode = s.mode := emit_mode_of_no_test (by simp [hm])
  have hfirst := emit_first (by simpa using hl) hunheld (by simpa using hv)
    (by simp [releaseBrake_of_hold hm hb, pulseDue]) (by simpa using ht)
  rw [← hemit] at hbrake hstart hfirst
  rw [releaseBrake_of_hold hm hb] at hemit hbrake hstart hfirst
  exact ⟨hemit, hbrake, hstart, hmode.trans hm, hfirst⟩

/-! ### The pulses of one phase (R221 to R229) -/

/-- Everything the emitter can do to the position, the trace and DIR: nothing, or the pulse loop from a
state that agrees with this one on them (R216, R217, R220, R221). -/
theorem emit_pulses (s : State) : ∃ m ≤ s.params.nMaxPulses,
    (emit s).trace = s.trace ++ List.replicate m s.direction ∧
    (emit s).position = wrap64 (s.position.toInt + m * s.direction.val) ∧
    (emit s).dirOut = (if m = 0 then s.dirOut else s.direction.bit) := by
  unfold emit
  split
  case isTrue => exact ⟨0, Nat.zero_le _, by simp [wrap64_toInt]⟩
  case isFalse =>
    split
    case isTrue => exact ⟨0, Nat.zero_le _, by simp [wrap64_toInt]⟩
    case isFalse =>
      by_cases hv : (releaseBrake s).currentSpeed.toNat < (releaseBrake s).params.vMinRun
      · rw [emitRunning_of_slow hv]
        exact ⟨0, Nat.zero_le _, by simp [wrap64_toInt]⟩
      · rw [emitRunning_of_runnable hv]
        obtain ⟨m, hm, htrace, hpos, hdir, -⟩ := pulseLoop_spec (interval (releaseBrake s))
          (releaseBrake s).params.nMaxPulses (releaseBrake s)
        exact ⟨m, by simpa using hm, by simpa using htrace, by simpa using hpos, by simpa using hdir⟩

/-- Settles O41, by `emit_pulses` from an empty trace. -/
theorem emitMovesPositionByItsTrace : Obligations.EmitMovesPositionByItsTrace := by
  intro s ht
  obtain ⟨m, hm, htrace, hpos, hdir⟩ := emit_pulses s
  exact ⟨m, hm, by rw [htrace, ht, List.nil_append], hpos, by simp, hdir⟩

/-! ### The schedule (R221, R225, R227) -/

/-- The backlog drop of a running mode keeps a deadline that is ahead of now, and snaps any other to now
plus one interval (R227). -/
theorem dropBacklog_deadline {iv : Nat} {s : State} (hm : s.mode ≠ .idle) (hnow : s.now.toNat < 2 ^ 63)
    (hiv : iv ≤ 10 ^ 12) :
    (dropBacklog iv s).nextStepDeadline.toNat =
      if s.now.toNat < s.nextStepDeadline.toNat then s.nextStepDeadline.toNat
      else s.now.toNat + iv := by
  split
  case isTrue hahead => rw [dropBacklog, if_neg (by simp [pulseDue, hahead])]
  case isFalse hdue =>
    rw [dropBacklog, if_pos ⟨hm, decide_eq_true (Nat.not_lt.1 hdue)⟩]
    exact toWord_toNat (by omega)

/-- Settles O43: each pulse was due (`pulseLoop_due`); the loop adds an interval a pulse and stops early
only ahead of now (`pulseLoop_schedule`), and the backlog drop acts exactly where it did not get there. -/
theorem scheduleNeverBehind : Obligations.ScheduleNeverBehind := by
  intro s iv hl hnow ht hrun hv hiv
  have hunheld : Unheld s := by
    rcases hrun with hm | ⟨hm, hb⟩
    · exact ⟨by simp [hm], by simp [hm]⟩
    · exact ⟨by simp [hm], fun _ => hb⟩
  obtain ⟨hivPos, hivLe⟩ := interval_bounds hl
  obtain rfl : iv = interval s := hiv
  rw [emit_of_runnable hunheld hv]
  simp only [dropBacklog_keeps]
  obtain ⟨m, htrace, hdue⟩ := pulseLoop_due (interval s) s.params.nMaxPulses s hnow hivLe
  have hlen : (pulseLoop (interval s) s.params.nMaxPulses s).trace.length = m := by
    simp [htrace, ht]
  rw [hlen]
  refine ⟨hdue, fun hend => ?_⟩
  obtain ⟨m', hmax, htrace', hdeadline, hearly⟩ :=
    pulseLoop_schedule (interval s) s.params.nMaxPulses s hnow hivLe hend
  obtain rfl : m' = m := by rw [← hlen, htrace']; simp [ht]
  rw [dropBacklog_deadline hend (by simpa using hnow) hivLe, hdeadline]
  simp only [pulseLoop_keeps]
  split <;> omega

end Sys2Proof.Machine
end

section
/-! SUPPORT. The statement of 10_state.md about the output ports (R47, R49). -/

namespace Sys2Proof.Machine

/-- The pin activity of a trace is that of its first pulse and then that of the others (R47). -/
theorem pins_of_trace_cons {s : State} {d : Dir} {ds : List Dir} (h : s.trace = d :: ds) :
    s.pins = pulsePins s.params d ++ ({ s with trace := ds } : State).pins := by
  simp only [State.pins, h, List.flatMap_cons]

/-- The port shows the steps of a saved slot (R49). -/
theorem statusSteps_of_saved {s : State} {k : Slot} (h : (s.slot k).saved = true) :
    s.statusSteps k = (s.slot k).steps := if_pos h

/-- The direction bit is 1 for right (R24). -/
theorem Dir.bit_eq_true_iff (d : Dir) : d.bit = true ↔ d = .right := by
  cases d <;> simp [Dir.bit]

/-- Settles O45: the pins pulse by pulse, the saved slots and the sampled level, and every other value
is its field. -/
theorem outputsShowState : Obligations.OutputsShowState := by
  intro s
  refine ⟨rfl, fun h => ?noPulse, fun d ds h => ?pulse, rfl, rfl, ?mode, fun h => ?home, fun h => ?well,
    fun e h => ?estop, rfl, rfl, rfl, Dir.bit_eq_true_iff _, rfl, rfl⟩
  case noPulse => simp [State.outputs, State.pins, h]
  case pulse =>
    change s.pins = _
    rw [pins_of_trace_cons h]
    cases d <;> rfl
  case mode =>
    change s.mode.code = _
    cases s.mode <;> rfl
  case home => exact statusSteps_of_saved (k := .home) h
  case well => exact statusSteps_of_saved (k := .well) h
  case estop =>
    change s.estopSeen.getD _ = e
    rw [h, Option.getD_some]

end Sys2Proof.Machine
end

section
/-! SUPPORT. The statements about whole steps: the position and its pulses (10_state.md), a quiescent block
(40_tick_sequence.md section 3), and the flip of a running jog (95_test_vectors.md E9). -/

namespace Sys2Proof.Machine

/-! ### The position counts pulses (R25, R65, R229) -/

/-- Phases 4 to 6 move the position by the pulses they send, all one way (R229). -/
theorem motionPhases_pulses (inp : Levels) (dt : Nat) {s : State} (ht : s.trace = []) :
    ∃ m ≤ s.params.nMaxPulses, ∃ d : Dir, (motionPhases inp dt s).trace = List.replicate m d ∧
      (motionPhases inp dt s).position = wrap64 (s.position.toInt + m * d.val) := by
  obtain ⟨m, hm, htrace, hpos, -⟩ := emit_pulses (profile dt (jogArbitrate (jogDemand inp s) s))
  exact ⟨m, by simpa using hm, _, by simpa [motionPhases, ht] using htrace,
    by simpa [motionPhases] using hpos⟩

/-- A tick moves the position by the pulses of its trace, all one way: phases 1 to 3 move nothing. -/
theorem step_tick_pulses {now : Word} {inp : Levels} {rest : List Event} {s t : State}
    (hs : NextIsTick now inp rest s) (h : step s = .next t) :
    ∃ m ≤ s.params.nMaxPulses, ∃ d : Dir, t.trace = List.replicate m d ∧
      t.position = wrap64 (s.position.toInt + m * d.val) := by
  have still : s.position = wrap64 (s.position.toInt + (0 : Nat) * Dir.right.val) := by
    simp [wrap64_toInt]
  obtain ⟨-, ⟨-, rfl⟩ | ⟨-, -, rfl⟩ | ⟨-, u, hu, rfl⟩⟩ := step_tick_cases hs h
  · exact ⟨0, Nat.zero_le _, .right, rfl, still⟩
  · exact ⟨0, Nat.zero_le _, .right, rfl, still⟩
  · obtain ⟨-, hpos, htrace⟩ := runLines_keeps hu
    have hparams : u.params = s.params := (runLines_params hu).trans (by simp [opened])
    have hu0 : u.trace = [] := htrace.trans (by simp [opened])
    have hux : u.position = s.position := hpos.trans (by simp [opened])
    rw [← hparams, ← hux]
    exact motionPhases_pulses inp _ hu0

/-- Settles O50: a tick by `step_tick_pulses`; bytes reach the framer only, and a reset leaves the table. -/
theorem positionCountsPulses : Obligations.PositionCountsPulses := by
  intro s t h
  refine ⟨fun now inp rest hs => ?_, fun bytes rest hs => ?_, fun rest hs => ?_⟩
  · obtain ⟨m, hm, d, htrace, hpos⟩ := step_tick_pulses hs h
    rw [hpos, htrace, netSteps_replicate, List.length_replicate]
    exact ⟨rfl, hm, d, fun e he => List.eq_of_mem_replicate he⟩
  · rw [step_of_event (step_cases h).1 hs] at h
    cases h
    exact ⟨rfl, rfl⟩
  · rw [step_of_event (step_cases h).1 hs] at h
    cases h
    exact ⟨rfl, rfl⟩

/-! ### A tick with no input (R121) -/

/-- A button at rest stays as it is while its level is 0, and reports nothing. -/
theorem debounce_of_up {b : ButtonState} (h : b.up = true) (p : Params) (now : Word) :
    debounce p false now b = (b, none) := by
  simp only [ButtonState.up, Bool.and_eq_true, Bool.not_eq_true'] at h
  obtain ⟨⟨hraw, hstable⟩, hlast⟩ := h
  have htrack : trackRaw false now b = b := if_neg (by simp [hraw])
  have haccept : acceptLevel p now b = b := if_neg (by simp [hraw, hstable])
  have hflag : flagLong p now b = b := if_neg (by simp [hlast])
  rw [debounce, htrack, haccept, hflag, edge_of_stable_eq (hstable.trans hlast.symm)]

/-- Phase 2 on a button at rest whose level is 0. -/
theorem serveButton_of_up {k : Slot} {s : State} (h : (s.btn k).up = true) :
    serveButton k false s = s := by
  have hdeb := debounce_of_up h s.params s.now
  rw [serveButton_of_event (congrArg Prod.snd hdeb), hdeb]
  cases k <;> rfl

/-- Phase 2 with both buttons at rest and no level. -/
theorem serveButtons_of_up {s : State} (h : buttonsUp s = true) :
    serveButton .well false (serveButton .home false s) = s := by
  obtain ⟨hhome, hwell⟩ := Bool.and_eq_true_iff.1 h
  rw [serveButton_of_up (k := .home) hhome, serveButton_of_up (k := .well) hwell]

/-- The profile has nothing to slow down in Idle at zero speed (R198). -/
theorem profile_of_still {s : State} (hm : s.mode = .idle) (hspeed : s.currentSpeed = 0#64) (dt : Nat) :
    profile dt s = s := by
  have hstill : toWord (s.currentSpeed.toNat - s.params.decel * dt) = s.currentSpeed := by
    simp [hspeed, toWord]
  rw [profile_of_idle hm, hstill]

/-- Phases 4 to 6 of a quiescent block with no jog level: nothing but the demand is written. -/
theorem motionPhases_of_quiescent {s : State} (h : quiescent s) (dt : Nat) :
    motionPhases noInputs dt s = { s with prevDemand := .neutral } := by
  obtain ⟨hidle, hspeed, hleft, hright, -⟩ := h
  have hdemand : jogDemand noInputs s = .neutral := by simp [jogDemand_eq, noInputs, hleft, hright]
  rw [motionPhases, hdemand, (jogRelease s).2 (by simp [hidle]),
    profile_of_still (by exact hidle) (by exact hspeed), emit_of_idle (by exact hidle)]

/-- Settles O53: with a closed gate nothing moves, and with an open one no button acts, no line runs and
the motion phases write the demand only. -/
theorem quiescentStaysQuiescent : Obligations.QuiescentStaysQuiescent := by
  intro s now rest hs hd hq hup
  obtain ⟨hidle, hspeed, hleft, hright, hqueue⟩ := hq
  by_cases hg : GateOpens now noInputs s
  · obtain ⟨u, hu, hstep⟩ := step_of_open hs hd hg
    rw [hqueue, arbiter, noInputs, serveButtons_of_up (s := opened now _ rest s) hup] at hu
    cases hu
    rw [← noInputs, motionPhases_of_quiescent
      (s := opened now noInputs rest s) ⟨hidle, hspeed, hleft, hright, rfl⟩] at hstep
    exact ⟨_, hstep, ⟨hidle, hspeed, hleft, hright, rfl⟩, hup, rfl, rfl, rfl, rfl, rfl, rfl⟩
  · exact ⟨_, step_of_closed hs hd rfl hg, ⟨hidle, hspeed, hleft, hright, rfl⟩, hup, rfl, rfl, rfl, rfl,
      rfl, rfl⟩

/-! ### The flip of a running jog (R146, R181) -/

/-- The profile of a jog leaves the direction (R198, R199). -/
theorem profile_direction_of_jog {s : State} {dt : Nat} (hm : s.mode = .jog) :
    (profile dt s).direction = s.direction := by
  cases hb : s.brakeHold with
  | true => rw [profile_of_held_jog hm hb]
  | false => rw [profile_of_jog hm hb]

/-- In a running jog out of its hold a demand of either side sets the direction, and leaves the mode, the
hold and the episode's start (R181, R183, D27). -/
theorem motionPhases_of_running_jog {s : State} {inp : Levels} {dir : Dir} (hm : s.mode = .jog)
    (hb : s.brakeHold = false) (hprev : s.prevDemand ≠ .neutral)
    (hdir : (jogDemand inp s).dir? = some dir) (dt : Nat) :
    (motionPhases inp dt s).mode = .jog ∧ (motionPhases inp dt s).direction = dir ∧
      (motionPhases inp dt s).prevDemand = jogDemand inp s ∧
      (motionPhases inp dt s).brakeHold = false ∧
      (motionPhases inp dt s).motionStartTime = s.motionStartTime := by
  have harb : jogArbitrate (jogDemand inp s) s =
      { s with direction := dir, prevDemand := jogDemand inp s } := by
    rw [jogArbitrate_of_dir hdir, startBrake_of_not_neutral hprev, enterJog_of_jog hm]
  have hunheld : Unheld (profile dt (jogArbitrate (jogDemand inp s) s)) :=
    ⟨by simp [harb, hm], fun _ => by simp [harb, hb]⟩
  obtain ⟨hbrake, hstart⟩ := emit_keeps_of_unheld hunheld
  have hmode := emit_mode_of_no_test (s := profile dt (jogArbitrate (jogDemand inp s) s))
    (by simp [harb, hm])
  have hdirection : (profile dt (jogArbitrate (jogDemand inp s) s)).direction = dir :=
    (profile_direction_of_jog (by simp [harb, hm])).trans (by rw [harb])
  rw [motionPhases, hmode, hbrake, hstart]
  exact ⟨by simp [harb, hm], by simpa using hdirection, by simp [harb], by simp [harb, hb],
    by simp [harb]⟩

/-- Settles O54: no button acts, `JR` sets the right flag, and the demand it leaves is right. -/
theorem jogFlipTakesOneTick : Obligations.JogFlipTakesOneTick := by
  intro s now rest hs hd hg hup hm hprev hb hqueue
  have hdec : decodeLine s.params.lineMax [0x4A#8, 0x52#8] = some .jr := by
    have hp := (legal_iff s.params).1 hd.1
    exact decodeLine_mono (m := 2) (by decide) (by omega)
  obtain ⟨u, hu, hstep⟩ := stepRunsDecodedCommand s now noInputs rest _ .jr hs hqueue hd hg hdec
  rw [noInputs, serveButtons_of_up (s := opened now _ rest s) hup, ← noInputs, exec_jr] at hu
  cases hu
  have hdemand := jogDemand_setRemoteJog_right noInputs (opened now noInputs rest s)
  obtain ⟨hmode, hdir, hprev', hbrake, hstart⟩ := motionPhases_of_running_jog
    (s := setRemoteJog false true (opened now noInputs rest s)) (inp := noInputs) (dir := .right) hm hb
    (by simp [opened, hprev]) (by rw [hdemand]; rfl) (now.toNat - s.lastTickTime.toNat)
  exact ⟨_, hstep, hmode, hdir, hprev'.trans hdemand, hbrake, by simp, by simp, hstart⟩

end Sys2Proof.Machine
end
